-- ==== Sys2Proof/Word.lean ====
section
/-! DEFINITION. The word types of the machine (rule R12): a byte register is 8 bits, the program
counter, the stack pointer and every register pair are 16 bits. -/

namespace Sys2Proof

/-- `u8` of rule R12 (parameter XLEN8 of rule R9). -/
abbrev Byte := BitVec 8

/-- `u16` of rule R12 (parameter XLEN16 of rule R9): addresses, PC, SP, register pairs. -/
abbrev Word := BitVec 16

end Sys2Proof
end

