-- ==== Sys2Proof/Syntax.lean ====
section
/-! DEFINITION. The instructions: one constructor per row of spec/opcode_table.json, in the table's
order (94 rows of the base table, rule R148, and 22 of the extended table, rule R150), with the
operands of rules R142 to R147 as plain Lean types. -/

namespace Sys2Proof

/-- The 8-bit operand codes of rule R143 other than 6. Code 6 is the memory byte at HL: it is never a
register (rule R13) and has rows of its own. -/
inductive Reg8 where
  | b | c | d | e | h | l | a
  deriving DecidableEq, Repr, Inhabited

/-- The pair codes of set `rr` (rule R144). -/
inductive PairRR where
  | bc | de | hl | sp
  deriving DecidableEq, Repr, Inhabited

/-- The pair codes of set `qq` (rule R144). -/
inductive PairQQ where
  | bc | de | hl | af
  deriving DecidableEq, Repr, Inhabited

/-- The condition codes of rule R145. -/
inductive Cond where
  | nz | z | nc | c
  deriving DecidableEq, Repr, Inhabited

/-- The instructions of the machine, one constructor per row of the opcode table. The comment at each
constructor is the row's mnemonic as the spec's text spells it, and its rule. -/
inductive Instr where
  | nop                                  -- NOP, R330
  | ldBcA                                -- LD (BC),A, R178
  | ldDeA                                -- LD (DE),A, R179
  | ldHliA                               -- LD (HL+),A, R186
  | ldHldA                               -- LD (HL-),A, R188
  | incHlMem                             -- INC (HL), R242
  | decHlMem                             -- DEC (HL), R244
  | ldHlN (n : Byte)                     -- LD (HL),n, R175
  | rlca                                 -- RLCA, R276
  | rrca                                 -- RRCA, R277
  | rla                                  -- RLA, R278
  | rra                                  -- RRA, R279
  | ldNnSp (nn : Word)                   -- LD (nn),SP, R201
  | ldABc                                -- LD A,(BC), R176
  | ldADe                                -- LD A,(DE), R177
  | ldAHli                               -- LD A,(HL+), R187
  | ldAHld                               -- LD A,(HL-), R189
  | stop (n : Byte)                      -- STOP, R332; n is the second byte, consumed and not examined
  | jrE (e : Byte)                       -- JR e, R314
  | daa                                  -- DAA, R245
  | cpl                                  -- CPL, R246
  | scf                                  -- SCF, R247
  | ccf                                  -- CCF, R248
  | halt                                 -- HALT, R331
  | addAHl                               -- ADD A,(HL), R218
  | adcAHl                               -- ADC A,(HL), R221
  | subHl                                -- SUB (HL), R224
  | sbcAHl                               -- SBC A,(HL), R227
  | andHl                                -- AND (HL), R230
  | xorHl                                -- XOR (HL), R233
  | orHl                                 -- OR (HL), R236
  | cpHl                                 -- CP (HL), R239
  | popAf                                -- POP AF, R206
  | jpNn (nn : Word)                     -- JP nn, R311
  | addAN (n : Byte)                     -- ADD A,n, R219
  | adcAN (n : Byte)                     -- ADC A,n, R222
  | subN (n : Byte)                      -- SUB n, R225
  | sbcAN (n : Byte)                     -- SBC A,n, R228
  | andN (n : Byte)                      -- AND n, R231
  | xorN (n : Byte)                      -- XOR n, R234
  | orN (n : Byte)                       -- OR n, R237
  | cpN (n : Byte)                       -- CP n, R240
  | ret                                  -- RET, R318
  | prefixCb (op2 : Byte)                -- PREFIX CB, R335: the extended-table entry op2
  | callNn (nn : Word)                   -- CALL nn, R316
  | reti                                 -- RETI, R320
  | ldhNA (n : Byte)                     -- LDH (n),A, R183
  | ldhAN (n : Byte)                     -- LDH A,(n), R182
  | ldhCA                                -- LDH (C),A, R185
  | ldhAC                                -- LDH A,(C), R184
  | addSpE (e : Byte)                    -- ADD SP,e, R268
  | jpHl                                 -- JP HL, R313
  | ldNnA (nn : Word)                    -- LD (nn),A, R181
  | ldANn (nn : Word)                    -- LD A,(nn), R180
  | di                                   -- DI, R333
  | ei                                   -- EI, R334
  | ldHlSpE (e : Byte)                   -- LD HL,SP+e, R203
  | ldSpHl                               -- LD SP,HL, R202
  | unrecD3                              -- (unrecognized 0xD3), R336
  | unrecDB                              -- (unrecognized 0xDB), R336
  | unrecDD                              -- (unrecognized 0xDD), R336
  | unrecE3                              -- (unrecognized 0xE3), R336
  | unrecE4                              -- (unrecognized 0xE4), R336
  | unrecEB                              -- (unrecognized 0xEB), R336
  | unrecEC                              -- (unrecognized 0xEC), R336
  | unrecED                              -- (unrecognized 0xED), R336
  | unrecF4                              -- (unrecognized 0xF4), R336
  | unrecFC                              -- (unrecognized 0xFC), R336
  | unrecFD                              -- (unrecognized 0xFD), R336
  | ldRrNn (rr : PairRR) (nn : Word)     -- LD rr,nn, R200
  | incRr (rr : PairRR)                  -- INC rr, R266
  | addHlRr (rr : PairRR)                -- ADD HL,rr, R265
  | decRr (rr : PairRR)                  -- DEC rr, R267
  | jrCcE (cc : Cond) (e : Byte)         -- JR cc,e, R315
  | retCc (cc : Cond)                    -- RET cc, R319
  | popQq (qq : PairQQ)                  -- POP qq, R205 (qq is not AF: the row excludes p = 3)
  | jpCcNn (cc : Cond) (nn : Word)       -- JP cc,nn, R312
  | callCcNn (cc : Cond) (nn : Word)     -- CALL cc,nn, R317
  | pushQq (qq : PairQQ)                 -- PUSH qq, R204
  | incR (r : Reg8)                      -- INC r, R241
  | decR (r : Reg8)                      -- DEC r, R243
  | ldRN (r : Reg8) (n : Byte)           -- LD r,n, R172
  | ldRHl (r : Reg8)                     -- LD r,(HL), R173
  | ldHlR (r : Reg8)                     -- LD (HL),r, R174
  | addAR (r : Reg8)                     -- ADD A,r, R217
  | adcAR (r : Reg8)                     -- ADC A,r, R220
  | subR (r : Reg8)                      -- SUB r, R223
  | sbcAR (r : Reg8)                     -- SBC A,r, R226
  | andR (r : Reg8)                      -- AND r, R229
  | xorR (r : Reg8)                      -- XOR r, R232
  | orR (r : Reg8)                       -- OR r, R235
  | cpR (r : Reg8)                       -- CP r, R238
  | rstT (t : BitVec 3)                  -- RST t, R322
  | ldRR (dst src : Reg8)                -- LD r,r', R171
  | rlcHl                                -- RLC (HL), R281
  | rrcHl                                -- RRC (HL), R283
  | rlHl                                 -- RL (HL), R285
  | rrHl                                 -- RR (HL), R287
  | slaHl                                -- SLA (HL), R289
  | sraHl                                -- SRA (HL), R291
  | swapHl                               -- SWAP (HL), R293
  | srlHl                                -- SRL (HL), R295
  | rlcR (r : Reg8)                      -- RLC r, R280
  | rrcR (r : Reg8)                      -- RRC r, R282
  | rlR (r : Reg8)                       -- RL r, R284
  | rrR (r : Reg8)                       -- RR r, R286
  | slaR (r : Reg8)                      -- SLA r, R288
  | sraR (r : Reg8)                      -- SRA r, R290
  | swapR (r : Reg8)                     -- SWAP r, R292
  | srlR (r : Reg8)                      -- SRL r, R294
  | bitHl (b : BitVec 3)                 -- BIT b,(HL), R297
  | resHl (b : BitVec 3)                 -- RES b,(HL), R299
  | setHl (b : BitVec 3)                 -- SET b,(HL), R301
  | bitR (b : BitVec 3) (r : Reg8)       -- BIT b,r, R296
  | resR (b : BitVec 3) (r : Reg8)       -- RES b,r, R298
  | setR (b : BitVec 3) (r : Reg8)       -- SET b,r, R300
  deriving DecidableEq, Repr, Inhabited

end Sys2Proof
end

