-- ==== Sys2Proof/WellFormed.lean ====
section
/-! DEFINITION. Which terms of `Instr` are instructions of the machine, that is, which ones the decoder
can produce. The operand types of Syntax.lean already exclude code 6 and out-of-range fields (rule
R632: no reserved operand value exists), so two checks are left. -/

namespace Sys2Proof

/-- A term is well-formed unless it is (i) POP qq with the pair AF, whose opcode 0xF1 is the row POP AF
(rule R205: "`p ≠ 3`"), or (ii) the bare row PREFIX CB, whose two bytes are the extended instruction
itself (rule R335: "the pair is one instruction"; rule R153). -/
def Instr.wellFormed : Instr → Bool
  | .popQq .af => false
  | .prefixCb _ => false
  | _ => true

end Sys2Proof
end

