-- ==== Sys2Proof/Decode.lean ====
section
/-! DEFINITION. The decoder (rules R140 to R153), total on any bytes, and after it the encoder, both
written from the opcode maps of rules R148 and R150. -/

namespace Sys2Proof

/-! ## Fields of an opcode byte (rule R142) -/

/-- `y = op[5:3]`. -/
def yField (op : Byte) : BitVec 3 := op.extractLsb' 3 3

/-- `z = op[2:0]`. -/
def zField (op : Byte) : BitVec 3 := op.extractLsb' 0 3

/-- `p = op[5:4]`. -/
def pField (op : Byte) : BitVec 2 := op.extractLsb' 4 2

/-- The condition field `op[4:3]` (rule R145). -/
def ccField (op : Byte) : BitVec 2 := op.extractLsb' 3 2

/-- Rule R143: the register of a 3-bit code; code 6 names no register. -/
def Reg8.ofCode (c : BitVec 3) : Option Reg8 :=
  match c.toNat with
  | 0 => some .b
  | 1 => some .c
  | 2 => some .d
  | 3 => some .e
  | 4 => some .h
  | 5 => some .l
  | 7 => some .a
  | _ => none

/-- Rule R144, set `rr`. -/
def PairRR.ofCode (c : BitVec 2) : PairRR :=
  match c.toNat with
  | 0 => .bc
  | 1 => .de
  | 2 => .hl
  | _ => .sp

/-- Rule R144, set `qq`. -/
def PairQQ.ofCode (c : BitVec 2) : PairQQ :=
  match c.toNat with
  | 0 => .bc
  | 1 => .de
  | 2 => .hl
  | _ => .af

/-- Rule R145. -/
def Cond.ofCode (c : BitVec 2) : Cond :=
  match c.toNat with
  | 0 => .nz
  | 1 => .z
  | 2 => .nc
  | _ => .c

/-! ## The two tables -/

/-- A row of the base table: the opcodes `op` with `op &&& mask = pat`, the number of bytes of the
instruction, and the instruction read from the opcode and the two bytes after it. A build that answers
none leaves an excluded field value (code 6, or pair AF of POP) to the row that owns it. -/
structure BaseRow where
  mask : Byte
  pat : Byte
  len : Nat
  build : Byte → Byte → Byte → Option Instr

/-- A row of the extended table, over the byte after 0xCB. -/
structure ExtRow where
  mask : Byte
  pat : Byte
  build : Byte → Option Instr

/-- Base rows 0x00 to 0x76 whose opcode is one value (rule R148). -/
def baseRows1 : List BaseRow :=
  [ ⟨0xFF, 0x00, 1, fun _ _ _ => some .nop⟩   -- 00000000 NOP
  , ⟨0xFF, 0x02, 1, fun _ _ _ => some .ldBcA⟩   -- 00000010 LD (BC),A
  , ⟨0xFF, 0x12, 1, fun _ _ _ => some .ldDeA⟩   -- 00010010 LD (DE),A
  , ⟨0xFF, 0x22, 1, fun _ _ _ => some .ldHliA⟩   -- 00100010 LD (HL+),A
  , ⟨0xFF, 0x32, 1, fun _ _ _ => some .ldHldA⟩   -- 00110010 LD (HL-),A
  , ⟨0xFF, 0x34, 1, fun _ _ _ => some .incHlMem⟩   -- 00110100 INC (HL)
  , ⟨0xFF, 0x35, 1, fun _ _ _ => some .decHlMem⟩   -- 00110101 DEC (HL)
  , ⟨0xFF, 0x36, 2, fun _ b1 _ => some (.ldHlN b1)⟩   -- 00110110 LD (HL),n
  , ⟨0xFF, 0x07, 1, fun _ _ _ => some .rlca⟩   -- 00000111 RLCA
  , ⟨0xFF, 0x0F, 1, fun _ _ _ => some .rrca⟩   -- 00001111 RRCA
  , ⟨0xFF, 0x17, 1, fun _ _ _ => some .rla⟩   -- 00010111 RLA
  , ⟨0xFF, 0x1F, 1, fun _ _ _ => some .rra⟩   -- 00011111 RRA
  , ⟨0xFF, 0x08, 3, fun _ b1 b2 => some (.ldNnSp (b2 ++ b1))⟩   -- 00001000 LD (nn),SP
  , ⟨0xFF, 0x0A, 1, fun _ _ _ => some .ldABc⟩   -- 00001010 LD A,(BC)
  , ⟨0xFF, 0x1A, 1, fun _ _ _ => some .ldADe⟩   -- 00011010 LD A,(DE)
  , ⟨0xFF, 0x2A, 1, fun _ _ _ => some .ldAHli⟩   -- 00101010 LD A,(HL+)
  , ⟨0xFF, 0x3A, 1, fun _ _ _ => some .ldAHld⟩   -- 00111010 LD A,(HL-)
  , ⟨0xFF, 0x10, 2, fun _ b1 _ => some (.stop b1)⟩   -- 00010000 STOP
  , ⟨0xFF, 0x18, 2, fun _ b1 _ => some (.jrE b1)⟩   -- 00011000 JR e
  , ⟨0xFF, 0x27, 1, fun _ _ _ => some .daa⟩   -- 00100111 DAA
  , ⟨0xFF, 0x2F, 1, fun _ _ _ => some .cpl⟩   -- 00101111 CPL
  , ⟨0xFF, 0x37, 1, fun _ _ _ => some .scf⟩   -- 00110111 SCF
  , ⟨0xFF, 0x3F, 1, fun _ _ _ => some .ccf⟩   -- 00111111 CCF
  , ⟨0xFF, 0x76, 1, fun _ _ _ => some .halt⟩   -- 01110110 HALT
  ]

/-- Base rows 0x86 to 0xF0 whose opcode is one value (rule R148). -/
def baseRows2 : List BaseRow :=
  [ ⟨0xFF, 0x86, 1, fun _ _ _ => some .addAHl⟩   -- 10000110 ADD A,(HL)
  , ⟨0xFF, 0x8E, 1, fun _ _ _ => some .adcAHl⟩   -- 10001110 ADC A,(HL)
  , ⟨0xFF, 0x96, 1, fun _ _ _ => some .subHl⟩   -- 10010110 SUB (HL)
  , ⟨0xFF, 0x9E, 1, fun _ _ _ => some .sbcAHl⟩   -- 10011110 SBC A,(HL)
  , ⟨0xFF, 0xA6, 1, fun _ _ _ => some .andHl⟩   -- 10100110 AND (HL)
  , ⟨0xFF, 0xAE, 1, fun _ _ _ => some .xorHl⟩   -- 10101110 XOR (HL)
  , ⟨0xFF, 0xB6, 1, fun _ _ _ => some .orHl⟩   -- 10110110 OR (HL)
  , ⟨0xFF, 0xBE, 1, fun _ _ _ => some .cpHl⟩   -- 10111110 CP (HL)
  , ⟨0xFF, 0xF1, 1, fun _ _ _ => some .popAf⟩   -- 11110001 POP AF
  , ⟨0xFF, 0xC3, 3, fun _ b1 b2 => some (.jpNn (b2 ++ b1))⟩   -- 11000011 JP nn
  , ⟨0xFF, 0xC6, 2, fun _ b1 _ => some (.addAN b1)⟩   -- 11000110 ADD A,n
  , ⟨0xFF, 0xCE, 2, fun _ b1 _ => some (.adcAN b1)⟩   -- 11001110 ADC A,n
  , ⟨0xFF, 0xD6, 2, fun _ b1 _ => some (.subN b1)⟩   -- 11010110 SUB n
  , ⟨0xFF, 0xDE, 2, fun _ b1 _ => some (.sbcAN b1)⟩   -- 11011110 SBC A,n
  , ⟨0xFF, 0xE6, 2, fun _ b1 _ => some (.andN b1)⟩   -- 11100110 AND n
  , ⟨0xFF, 0xEE, 2, fun _ b1 _ => some (.xorN b1)⟩   -- 11101110 XOR n
  , ⟨0xFF, 0xF6, 2, fun _ b1 _ => some (.orN b1)⟩   -- 11110110 OR n
  , ⟨0xFF, 0xFE, 2, fun _ b1 _ => some (.cpN b1)⟩   -- 11111110 CP n
  , ⟨0xFF, 0xC9, 1, fun _ _ _ => some .ret⟩   -- 11001001 RET
  , ⟨0xFF, 0xCB, 2, fun _ b1 _ => some (.prefixCb b1)⟩   -- 11001011 PREFIX CB
  , ⟨0xFF, 0xCD, 3, fun _ b1 b2 => some (.callNn (b2 ++ b1))⟩   -- 11001101 CALL nn
  , ⟨0xFF, 0xD9, 1, fun _ _ _ => some .reti⟩   -- 11011001 RETI
  , ⟨0xFF, 0xE0, 2, fun _ b1 _ => some (.ldhNA b1)⟩   -- 11100000 LDH (n),A
  , ⟨0xFF, 0xF0, 2, fun _ b1 _ => some (.ldhAN b1)⟩   -- 11110000 LDH A,(n)
  ]

/-- Base rows from 0xE2 whose opcode is one value, and the eleven unrecognized opcodes (rules R148, R151). -/
def baseRows3 : List BaseRow :=
  [ ⟨0xFF, 0xE2, 1, fun _ _ _ => some .ldhCA⟩   -- 11100010 LDH (C),A
  , ⟨0xFF, 0xF2, 1, fun _ _ _ => some .ldhAC⟩   -- 11110010 LDH A,(C)
  , ⟨0xFF, 0xE8, 2, fun _ b1 _ => some (.addSpE b1)⟩   -- 11101000 ADD SP,e
  , ⟨0xFF, 0xE9, 1, fun _ _ _ => some .jpHl⟩   -- 11101001 JP HL
  , ⟨0xFF, 0xEA, 3, fun _ b1 b2 => some (.ldNnA (b2 ++ b1))⟩   -- 11101010 LD (nn),A
  , ⟨0xFF, 0xFA, 3, fun _ b1 b2 => some (.ldANn (b2 ++ b1))⟩   -- 11111010 LD A,(nn)
  , ⟨0xFF, 0xF3, 1, fun _ _ _ => some .di⟩   -- 11110011 DI
  , ⟨0xFF, 0xFB, 1, fun _ _ _ => some .ei⟩   -- 11111011 EI
  , ⟨0xFF, 0xF8, 2, fun _ b1 _ => some (.ldHlSpE b1)⟩   -- 11111000 LD HL,SP+e
  , ⟨0xFF, 0xF9, 1, fun _ _ _ => some .ldSpHl⟩   -- 11111001 LD SP,HL
  , ⟨0xFF, 0xD3, 1, fun _ _ _ => some .unrecD3⟩   -- 11010011 (unrecognized 0xD3)
  , ⟨0xFF, 0xDB, 1, fun _ _ _ => some .unrecDB⟩   -- 11011011 (unrecognized 0xDB)
  , ⟨0xFF, 0xDD, 1, fun _ _ _ => some .unrecDD⟩   -- 11011101 (unrecognized 0xDD)
  , ⟨0xFF, 0xE3, 1, fun _ _ _ => some .unrecE3⟩   -- 11100011 (unrecognized 0xE3)
  , ⟨0xFF, 0xE4, 1, fun _ _ _ => some .unrecE4⟩   -- 11100100 (unrecognized 0xE4)
  , ⟨0xFF, 0xEB, 1, fun _ _ _ => some .unrecEB⟩   -- 11101011 (unrecognized 0xEB)
  , ⟨0xFF, 0xEC, 1, fun _ _ _ => some .unrecEC⟩   -- 11101100 (unrecognized 0xEC)
  , ⟨0xFF, 0xED, 1, fun _ _ _ => some .unrecED⟩   -- 11101101 (unrecognized 0xED)
  , ⟨0xFF, 0xF4, 1, fun _ _ _ => some .unrecF4⟩   -- 11110100 (unrecognized 0xF4)
  , ⟨0xFF, 0xFC, 1, fun _ _ _ => some .unrecFC⟩   -- 11111100 (unrecognized 0xFC)
  , ⟨0xFF, 0xFD, 1, fun _ _ _ => some .unrecFD⟩   -- 11111101 (unrecognized 0xFD)
  ]

/-- Base rows with a field in the opcode (rule R148), after the more specific rows. -/
def baseRows4 : List BaseRow :=
  [ ⟨0xCF, 0x01, 3, fun op b1 b2 => some (.ldRrNn (PairRR.ofCode (pField op)) (b2 ++ b1))⟩   -- 00pp0001 LD rr,nn
  , ⟨0xCF, 0x03, 1, fun op _ _ => some (.incRr (PairRR.ofCode (pField op)))⟩   -- 00pp0011 INC rr
  , ⟨0xCF, 0x09, 1, fun op _ _ => some (.addHlRr (PairRR.ofCode (pField op)))⟩   -- 00pp1001 ADD HL,rr
  , ⟨0xCF, 0x0B, 1, fun op _ _ => some (.decRr (PairRR.ofCode (pField op)))⟩   -- 00pp1011 DEC rr
  , ⟨0xE7, 0x20, 2, fun op b1 _ => some (.jrCcE (Cond.ofCode (ccField op)) b1)⟩   -- 001cc000 JR cc,e
  , ⟨0xE7, 0xC0, 1, fun op _ _ => some (.retCc (Cond.ofCode (ccField op)))⟩   -- 110cc000 RET cc
  , ⟨0xCF, 0xC1, 1, fun op _ _ => (if pField op = 3#2 then none else some (.popQq (PairQQ.ofCode (pField op))))⟩   -- 11pp0001 POP qq
  , ⟨0xE7, 0xC2, 3, fun op b1 b2 => some (.jpCcNn (Cond.ofCode (ccField op)) (b2 ++ b1))⟩   -- 110cc010 JP cc,nn
  , ⟨0xE7, 0xC4, 3, fun op b1 b2 => some (.callCcNn (Cond.ofCode (ccField op)) (b2 ++ b1))⟩   -- 110cc100 CALL cc,nn
  , ⟨0xCF, 0xC5, 1, fun op _ _ => some (.pushQq (PairQQ.ofCode (pField op)))⟩   -- 11pp0101 PUSH qq
  , ⟨0xC7, 0x04, 1, fun op _ _ => (Reg8.ofCode (yField op)).bind fun r => some (.incR r)⟩   -- 00yyy100 INC r
  , ⟨0xC7, 0x05, 1, fun op _ _ => (Reg8.ofCode (yField op)).bind fun r => some (.decR r)⟩   -- 00yyy101 DEC r
  , ⟨0xC7, 0x06, 2, fun op b1 _ => (Reg8.ofCode (yField op)).bind fun r => some (.ldRN r b1)⟩   -- 00yyy110 LD r,n
  , ⟨0xC7, 0x46, 1, fun op _ _ => (Reg8.ofCode (yField op)).bind fun r => some (.ldRHl r)⟩   -- 01yyy110 LD r,(HL)
  , ⟨0xF8, 0x70, 1, fun op _ _ => (Reg8.ofCode (zField op)).bind fun r => some (.ldHlR r)⟩   -- 01110zzz LD (HL),r
  , ⟨0xF8, 0x80, 1, fun op _ _ => (Reg8.ofCode (zField op)).bind fun r => some (.addAR r)⟩   -- 10000zzz ADD A,r
  , ⟨0xF8, 0x88, 1, fun op _ _ => (Reg8.ofCode (zField op)).bind fun r => some (.adcAR r)⟩   -- 10001zzz ADC A,r
  , ⟨0xF8, 0x90, 1, fun op _ _ => (Reg8.ofCode (zField op)).bind fun r => some (.subR r)⟩   -- 10010zzz SUB r
  , ⟨0xF8, 0x98, 1, fun op _ _ => (Reg8.ofCode (zField op)).bind fun r => some (.sbcAR r)⟩   -- 10011zzz SBC A,r
  , ⟨0xF8, 0xA0, 1, fun op _ _ => (Reg8.ofCode (zField op)).bind fun r => some (.andR r)⟩   -- 10100zzz AND r
  , ⟨0xF8, 0xA8, 1, fun op _ _ => (Reg8.ofCode (zField op)).bind fun r => some (.xorR r)⟩   -- 10101zzz XOR r
  , ⟨0xF8, 0xB0, 1, fun op _ _ => (Reg8.ofCode (zField op)).bind fun r => some (.orR r)⟩   -- 10110zzz OR r
  , ⟨0xF8, 0xB8, 1, fun op _ _ => (Reg8.ofCode (zField op)).bind fun r => some (.cpR r)⟩   -- 10111zzz CP r
  , ⟨0xC7, 0xC7, 1, fun op _ _ => some (.rstT (yField op))⟩   -- 11ttt111 RST t
  , ⟨0xC0, 0x40, 1, fun op _ _ => (Reg8.ofCode (yField op)).bind fun dst => (Reg8.ofCode (zField op)).bind fun src => some (.ldRR dst src)⟩   -- 01yyyzzz LD r,r'
  ]

/-- The extended table (rule R150), over the byte after 0xCB. -/
def extRows : List ExtRow :=
  [ ⟨0xFF, 0x06, fun _ => some .rlcHl⟩   -- 11001011 00000110 RLC (HL)
  , ⟨0xFF, 0x0E, fun _ => some .rrcHl⟩   -- 11001011 00001110 RRC (HL)
  , ⟨0xFF, 0x16, fun _ => some .rlHl⟩   -- 11001011 00010110 RL (HL)
  , ⟨0xFF, 0x1E, fun _ => some .rrHl⟩   -- 11001011 00011110 RR (HL)
  , ⟨0xFF, 0x26, fun _ => some .slaHl⟩   -- 11001011 00100110 SLA (HL)
  , ⟨0xFF, 0x2E, fun _ => some .sraHl⟩   -- 11001011 00101110 SRA (HL)
  , ⟨0xFF, 0x36, fun _ => some .swapHl⟩   -- 11001011 00110110 SWAP (HL)
  , ⟨0xFF, 0x3E, fun _ => some .srlHl⟩   -- 11001011 00111110 SRL (HL)
  , ⟨0xF8, 0x00, fun op => (Reg8.ofCode (zField op)).bind fun r => some (.rlcR r)⟩   -- 11001011 00000zzz RLC r
  , ⟨0xF8, 0x08, fun op => (Reg8.ofCode (zField op)).bind fun r => some (.rrcR r)⟩   -- 11001011 00001zzz RRC r
  , ⟨0xF8, 0x10, fun op => (Reg8.ofCode (zField op)).bind fun r => some (.rlR r)⟩   -- 11001011 00010zzz RL r
  , ⟨0xF8, 0x18, fun op => (Reg8.ofCode (zField op)).bind fun r => some (.rrR r)⟩   -- 11001011 00011zzz RR r
  , ⟨0xF8, 0x20, fun op => (Reg8.ofCode (zField op)).bind fun r => some (.slaR r)⟩   -- 11001011 00100zzz SLA r
  , ⟨0xF8, 0x28, fun op => (Reg8.ofCode (zField op)).bind fun r => some (.sraR r)⟩   -- 11001011 00101zzz SRA r
  , ⟨0xF8, 0x30, fun op => (Reg8.ofCode (zField op)).bind fun r => some (.swapR r)⟩   -- 11001011 00110zzz SWAP r
  , ⟨0xF8, 0x38, fun op => (Reg8.ofCode (zField op)).bind fun r => some (.srlR r)⟩   -- 11001011 00111zzz SRL r
  , ⟨0xC7, 0x46, fun op => some (.bitHl (yField op))⟩   -- 11001011 01bbb110 BIT b,(HL)
  , ⟨0xC7, 0x86, fun op => some (.resHl (yField op))⟩   -- 11001011 10bbb110 RES b,(HL)
  , ⟨0xC7, 0xC6, fun op => some (.setHl (yField op))⟩   -- 11001011 11bbb110 SET b,(HL)
  , ⟨0xC0, 0x40, fun op => (Reg8.ofCode (zField op)).bind fun r => some (.bitR (yField op) r)⟩   -- 11001011 01bbbzzz BIT b,r
  , ⟨0xC0, 0x80, fun op => (Reg8.ofCode (zField op)).bind fun r => some (.resR (yField op) r)⟩   -- 11001011 10bbbzzz RES b,r
  , ⟨0xC0, 0xC0, fun op => (Reg8.ofCode (zField op)).bind fun r => some (.setR (yField op) r)⟩   -- 11001011 11bbbzzz SET b,r
  ]

/-- The base table (rule R148), most specific rows first. -/
def baseRows : List BaseRow := baseRows1 ++ baseRows2 ++ baseRows3 ++ baseRows4

/-- The instruction a base opcode and the two bytes after it stand for; opcode 0xCB answers the prefix. -/
def lookupBase (op b1 b2 : Byte) : Option Instr :=
  baseRows.findSome? fun r => if op &&& r.mask = r.pat then r.build op b1 b2 else none

/-- The extended instruction of the byte after 0xCB (rule R150). -/
def lookupExt (op2 : Byte) : Option Instr :=
  extRows.findSome? fun r => if op2 &&& r.mask = r.pat then r.build op2 else none

/-- Rule R141, R153: the number of bytes of an instruction, from byte 0 alone. An unrecognized opcode
has no length; nothing after its one byte is fetched (rule R336). -/
def opLength (op : Byte) : Nat :=
  (baseRows.findSome? fun r => if op &&& r.mask = r.pat then some r.len else none).getD 1

/-- Why bytes are no instruction. Every opcode value has a row (rule R153), so only a byte list that ends
inside an instruction is rejected as `truncated`; `noRow` answers for a byte no row covers. -/
inductive DecodeReject where
  | truncated
  | noRow
  deriving DecidableEq, Repr

/-- Rule R153: the instruction at the head of a byte list, and the bytes after it. -/
def decode (bs : List Byte) : Except DecodeReject (Instr × List Byte) :=
  match bs with
  | [] => .error .truncated
  | op :: rest =>
    if rest.length + 1 < opLength op then .error .truncated
    else
      match lookupBase op (rest.getD 0 0) (rest.getD 1 0) with
      | some (.prefixCb op2) =>
        match lookupExt op2 with
        | some i => .ok (i, rest.drop 1)
        | none => .error .noRow
      | some i => .ok (i, rest.drop (opLength op - 1))
      | none => .error .noRow

/-! ## Lengths and cycle costs of the instructions (rules R141, R148, R150) -/

/-- LEN of rule R148 (an extended instruction has 2, rule R150; an unrecognized opcode is one byte). -/
def Instr.length : Instr → Nat
  | .nop | .ldBcA | .ldDeA | .ldHliA | .ldHldA | .incHlMem | .decHlMem | .rlca | .rrca | .rla
  | .rra | .ldABc | .ldADe | .ldAHli | .ldAHld | .daa | .cpl | .scf | .ccf | .halt | .addAHl
  | .adcAHl | .subHl | .sbcAHl | .andHl | .xorHl | .orHl | .cpHl | .popAf | .ret | .reti | .ldhCA
  | .ldhAC | .jpHl | .di | .ei | .ldSpHl | .unrecD3 | .unrecDB | .unrecDD | .unrecE3 | .unrecE4
  | .unrecEB | .unrecEC | .unrecED | .unrecF4 | .unrecFC | .unrecFD | .incRr _ | .addHlRr _
  | .decRr _ | .retCc _ | .popQq _ | .pushQq _ | .incR _ | .decR _ | .ldRHl _ | .ldHlR _
  | .addAR _ | .adcAR _ | .subR _ | .sbcAR _ | .andR _ | .xorR _ | .orR _ | .cpR _ | .rstT _
  | .ldRR _ _ => 1
  | .ldHlN _ | .stop _ | .jrE _ | .addAN _ | .adcAN _ | .subN _ | .sbcAN _ | .andN _ | .xorN _
  | .orN _ | .cpN _ | .prefixCb _ | .ldhNA _ | .ldhAN _ | .addSpE _ | .ldHlSpE _ | .jrCcE _ _
  | .ldRN _ _ | .rlcHl | .rrcHl | .rlHl | .rrHl | .slaHl | .sraHl | .swapHl | .srlHl | .rlcR _
  | .rrcR _ | .rlR _ | .rrR _ | .slaR _ | .sraR _ | .swapR _ | .srlR _ | .bitHl _ | .resHl _
  | .setHl _ | .bitR _ _ | .resR _ _ | .setR _ _ => 2
  | .ldNnSp _ | .jpNn _ | .callNn _ | .ldNnA _ | .ldANn _ | .ldRrNn _ _ | .jpCcNn _ _
  | .callCcNn _ _ => 3

/-- CYC of rules R148 and R150 in T-cycles; `taken` matters to the conditional transfers only. An
unrecognized opcode reports no cycles (rule R336). -/
def Instr.cyclesOf (taken : Bool) : Instr → Nat
  | .prefixCb _ => 0
  | .nop | .rlca | .rrca | .rla | .rra | .stop _ | .daa | .cpl | .scf | .ccf | .halt | .jpHl
  | .di | .ei | .incR _ | .decR _ | .addAR _ | .adcAR _ | .subR _ | .sbcAR _ | .andR _ | .xorR _
  | .orR _ | .cpR _ | .ldRR _ _ => 4
  | .ldBcA | .ldDeA | .ldHliA | .ldHldA | .ldABc | .ldADe | .ldAHli | .ldAHld | .addAHl | .adcAHl
  | .subHl | .sbcAHl | .andHl | .xorHl | .orHl | .cpHl | .addAN _ | .adcAN _ | .subN _ | .sbcAN _
  | .andN _ | .xorN _ | .orN _ | .cpN _ | .ldhCA | .ldhAC | .ldSpHl | .incRr _ | .addHlRr _
  | .decRr _ | .ldRN _ _ | .ldRHl _ | .ldHlR _ | .rlcR _ | .rrcR _ | .rlR _ | .rrR _ | .slaR _
  | .sraR _ | .swapR _ | .srlR _ | .bitR _ _ | .resR _ _ | .setR _ _ => 8
  | .incHlMem | .decHlMem | .ldHlN _ | .jrE _ | .popAf | .ldhNA _ | .ldhAN _ | .ldHlSpE _
  | .ldRrNn _ _ | .popQq _ | .bitHl _ => 12
  | .ldNnSp _ => 20
  | .jpNn _ | .ret | .reti | .addSpE _ | .ldNnA _ | .ldANn _ | .pushQq _ | .rstT _ | .rlcHl
  | .rrcHl | .rlHl | .rrHl | .slaHl | .sraHl | .swapHl | .srlHl | .resHl _ | .setHl _ => 16
  | .callNn _ => 24
  | .unrecD3 | .unrecDB | .unrecDD | .unrecE3 | .unrecE4 | .unrecEB | .unrecEC | .unrecED
  | .unrecF4 | .unrecFC | .unrecFD => 0
  | .jrCcE _ _ => if taken then 12 else 8
  | .retCc _ => if taken then 20 else 8
  | .jpCcNn _ _ => if taken then 16 else 12
  | .callCcNn _ _ => if taken then 24 else 12

/-- CYCLES(op, taken) of rule R9. The prefix has "no cycle cost of its own beyond what the extended
entry's count includes" (rule R335). -/
def Instr.cycles (i : Instr) (taken : Bool) : Nat :=
  match i with
  | .prefixCb op2 => ((lookupExt op2).map (Instr.cyclesOf taken)).getD 0
  | i => i.cyclesOf taken

/-! ## The encoder -/

/-- Rule R143. -/
def Reg8.code : Reg8 → BitVec 3
  | .b => 0
  | .c => 1
  | .d => 2
  | .e => 3
  | .h => 4
  | .l => 5
  | .a => 7

/-- Rule R144, set `rr`. -/
def PairRR.code : PairRR → BitVec 2
  | .bc => 0
  | .de => 1
  | .hl => 2
  | .sp => 3

/-- Rule R144, set `qq`. -/
def PairQQ.code : PairQQ → BitVec 2
  | .bc => 0
  | .de => 1
  | .hl => 2
  | .af => 3

/-- Rule R145. -/
def Cond.code : Cond → BitVec 2
  | .nz => 0
  | .z => 1
  | .nc => 2
  | .c => 3

/-- A 3-bit value placed at `op[5:3]`. -/
def atY (c : BitVec 3) : Byte := c.zeroExtend 8 <<< 3

/-- A 3-bit value placed at `op[2:0]`. -/
def atZ (c : BitVec 3) : Byte := c.zeroExtend 8

/-- A 2-bit value placed at `op[5:4]`. -/
def atP (c : BitVec 2) : Byte := c.zeroExtend 8 <<< 4

/-- A 2-bit value placed at `op[4:3]`. -/
def atCc (c : BitVec 2) : Byte := c.zeroExtend 8 <<< 3

/-- `v[7:0]`. -/
def lowByte (v : Word) : Byte := v.extractLsb' 0 8

/-- `v[15:8]`. -/
def highByte (v : Word) : Byte := v.extractLsb' 8 8

/-- The bytes of an instruction in ascending address order (rules R140, R147, R148, R150). -/
def encode : Instr → List Byte
  | .nop => [0x00]
  | .ldBcA => [0x02]
  | .ldDeA => [0x12]
  | .ldHliA => [0x22]
  | .ldHldA => [0x32]
  | .incHlMem => [0x34]
  | .decHlMem => [0x35]
  | .ldHlN n => [0x36, n]
  | .rlca => [0x07]
  | .rrca => [0x0F]
  | .rla => [0x17]
  | .rra => [0x1F]
  | .ldNnSp nn => [0x08, lowByte nn, highByte nn]
  | .ldABc => [0x0A]
  | .ldADe => [0x1A]
  | .ldAHli => [0x2A]
  | .ldAHld => [0x3A]
  | .stop n => [0x10, n]
  | .jrE e => [0x18, e]
  | .daa => [0x27]
  | .cpl => [0x2F]
  | .scf => [0x37]
  | .ccf => [0x3F]
  | .halt => [0x76]
  | .addAHl => [0x86]
  | .adcAHl => [0x8E]
  | .subHl => [0x96]
  | .sbcAHl => [0x9E]
  | .andHl => [0xA6]
  | .xorHl => [0xAE]
  | .orHl => [0xB6]
  | .cpHl => [0xBE]
  | .popAf => [0xF1]
  | .jpNn nn => [0xC3, lowByte nn, highByte nn]
  | .addAN n => [0xC6, n]
  | .adcAN n => [0xCE, n]
  | .subN n => [0xD6, n]
  | .sbcAN n => [0xDE, n]
  | .andN n => [0xE6, n]
  | .xorN n => [0xEE, n]
  | .orN n => [0xF6, n]
  | .cpN n => [0xFE, n]
  | .ret => [0xC9]
  | .prefixCb op2 => [0xCB, op2]
  | .callNn nn => [0xCD, lowByte nn, highByte nn]
  | .reti => [0xD9]
  | .ldhNA n => [0xE0, n]
  | .ldhAN n => [0xF0, n]
  | .ldhCA => [0xE2]
  | .ldhAC => [0xF2]
  | .addSpE e => [0xE8, e]
  | .jpHl => [0xE9]
  | .ldNnA nn => [0xEA, lowByte nn, highByte nn]
  | .ldANn nn => [0xFA, lowByte nn, highByte nn]
  | .di => [0xF3]
  | .ei => [0xFB]
  | .ldHlSpE e => [0xF8, e]
  | .ldSpHl => [0xF9]
  | .unrecD3 => [0xD3]
  | .unrecDB => [0xDB]
  | .unrecDD => [0xDD]
  | .unrecE3 => [0xE3]
  | .unrecE4 => [0xE4]
  | .unrecEB => [0xEB]
  | .unrecEC => [0xEC]
  | .unrecED => [0xED]
  | .unrecF4 => [0xF4]
  | .unrecFC => [0xFC]
  | .unrecFD => [0xFD]
  | .ldRrNn rr nn => [0x01 ||| atP rr.code, lowByte nn, highByte nn]
  | .incRr rr => [0x03 ||| atP rr.code]
  | .addHlRr rr => [0x09 ||| atP rr.code]
  | .decRr rr => [0x0B ||| atP rr.code]
  | .jrCcE cc e => [0x20 ||| atCc cc.code, e]
  | .retCc cc => [0xC0 ||| atCc cc.code]
  | .popQq qq => [0xC1 ||| atP qq.code]
  | .jpCcNn cc nn => [0xC2 ||| atCc cc.code, lowByte nn, highByte nn]
  | .callCcNn cc nn => [0xC4 ||| atCc cc.code, lowByte nn, highByte nn]
  | .pushQq qq => [0xC5 ||| atP qq.code]
  | .incR r => [0x04 ||| atY r.code]
  | .decR r => [0x05 ||| atY r.code]
  | .ldRN r n => [0x06 ||| atY r.code, n]
  | .ldRHl r => [0x46 ||| atY r.code]
  | .ldHlR r => [0x70 ||| atZ r.code]
  | .addAR r => [0x80 ||| atZ r.code]
  | .adcAR r => [0x88 ||| atZ r.code]
  | .subR r => [0x90 ||| atZ r.code]
  | .sbcAR r => [0x98 ||| atZ r.code]
  | .andR r => [0xA0 ||| atZ r.code]
  | .xorR r => [0xA8 ||| atZ r.code]
  | .orR r => [0xB0 ||| atZ r.code]
  | .cpR r => [0xB8 ||| atZ r.code]
  | .rstT t => [0xC7 ||| atY t]
  | .ldRR dst src => [0x40 ||| atY dst.code ||| atZ src.code]
  | .rlcHl => [0xCB, 0x06]
  | .rrcHl => [0xCB, 0x0E]
  | .rlHl => [0xCB, 0x16]
  | .rrHl => [0xCB, 0x1E]
  | .slaHl => [0xCB, 0x26]
  | .sraHl => [0xCB, 0x2E]
  | .swapHl => [0xCB, 0x36]
  | .srlHl => [0xCB, 0x3E]
  | .rlcR r => [0xCB, 0x00 ||| atZ r.code]
  | .rrcR r => [0xCB, 0x08 ||| atZ r.code]
  | .rlR r => [0xCB, 0x10 ||| atZ r.code]
  | .rrR r => [0xCB, 0x18 ||| atZ r.code]
  | .slaR r => [0xCB, 0x20 ||| atZ r.code]
  | .sraR r => [0xCB, 0x28 ||| atZ r.code]
  | .swapR r => [0xCB, 0x30 ||| atZ r.code]
  | .srlR r => [0xCB, 0x38 ||| atZ r.code]
  | .bitHl b => [0xCB, 0x46 ||| atY b]
  | .resHl b => [0xCB, 0x86 ||| atY b]
  | .setHl b => [0xCB, 0xC6 ||| atY b]
  | .bitR b r => [0xCB, 0x40 ||| atY b ||| atZ r.code]
  | .resR b r => [0xCB, 0x80 ||| atY b ||| atZ r.code]
  | .setR b r => [0xCB, 0xC0 ||| atY b ||| atZ r.code]

/-! ## The opcode table's numbering -/

/-- The three bytes an opcode-table word stands for. A row of width 8 numbers the bits of byte 0. A row
of width 16 is the table's `byte0 << 8 | byte1` (spec/INDEX.md, "Notes on opcode_table.json"), and only
the 0xCB rows have that width; a word numbered with byte 0 low is read so as well, when its low byte is
0xCB and its high byte is not. Bytes past the given bits are 0 (log entry 12). -/
def tableBytes (nbits w : Nat) : List Byte :=
  let lo : Byte := BitVec.ofNat 8 w
  let hi : Byte := BitVec.ofNat 8 (w / 256)
  if nbits ≤ 8 then [lo, 0, 0]
  else if hi = 0xCB then [hi, lo, 0]
  else [lo, hi, BitVec.ofNat 8 (w / 65536)]

/-- What the decoder reads from an instruction whose opcode-table word is `w`. -/
def decodeTableWord (nbits w : Nat) : Option Instr :=
  match decode (tableBytes nbits w) with
  | .ok (i, _) => some i
  | .error _ => none

end Sys2Proof
end

