-- ==== Sys2Proof/Machine/Bits.lean ====
section
/-! DEFINITION. Bits and fields of bytes (rule R11), bytes of words (rules R12, R110), and the running
counters of rule R36. -/

namespace Sys2Proof

/-- `v[i]` of a byte, as a truth value. -/
def bitOf (v : Byte) (i : Nat) : Bool := v.getLsbD i

/-- The field of `n` bits from bit `lo` up, as a number: `v[lo+n-1 : lo]`. -/
def fieldOf (v : Byte) (lo n : Nat) : Nat := v.toNat / 2 ^ lo % 2 ^ n

/-- `old` with the bits of `mask` taken from `new`: a write that changes some bits only. -/
def mergeBits (mask old new : Byte) : Byte := (old &&& ~~~mask) ||| (new &&& mask)

/-- `sext_16(e)` of rule R12. -/
def sext16 (e : Byte) : Word := e.signExtend 16

/-- `hi ++ lo` (rule R11). -/
def joinBytes (hi lo : Byte) : Word := hi ++ lo

/-- `v[15:8]`. -/
def hiByte (v : Word) : Byte := v.extractLsb' 8 8

/-- `v[7:0]`. -/
def loByte (v : Word) : Byte := v.extractLsb' 0 8

/-- How often `while acc >= t: acc <- acc - t; tick` runs its body, for a threshold that the body does not
change (rule R36: the threshold is subtracted, never reset). -/
def crossings (acc t : Nat) : Nat := acc / t

/-- What that loop leaves in the accumulator. -/
def leftover (acc t : Nat) : Nat := acc % t

end Sys2Proof
end

