-- ==== Sys2Proof/Config.lean ====
section
/-! DEFINITION. The implementation parameters of rule R9 as plain data, their defaults, and the free
input the spec puts under no law (ThrottleDraw, rule R551). A machine carries its parameters in
its state (`State.params`), so that a statement about every state is a statement about every value of
the parameters; no step changes them. -/

namespace Sys2Proof

/-- Parameter SP_E_FLAGS of rule R9: how ADD SP,e and LD HL,SP+e compute H and C (rules R203, R268). -/
inductive SpEFlags where
  | byte
  | word
  deriving DecidableEq, Repr, Inhabited

/-- Parameter SPRITE_PICK of rule R9: which ten overlapping sprites a line keeps (rule R460). -/
inductive SpritePick where
  | table
  | x
  deriving DecidableEq, Repr, Inhabited

/-- One value of the free input ThrottleDraw of rule R551: the nudge -1, 0 or +1 of the resampling
threshold. -/
inductive Throttle where
  | down
  | keep
  | up
  deriving DecidableEq, Repr, Inhabited

/-- The parameters of rule R9 that are numbers or switches. (BusMap, CartImage, BootImage and ResetState of rule
R9 are arguments of construction, `Machine.HostSupply`.) -/
structure Params where
  /-- CLOCK_HZ: clock ticks per second. -/
  clockHz : Nat
  /-- IDLE_CYCLES: cycles a step taken in halt or stop reports. -/
  idleCycles : Nat
  /-- INT_DISPATCH_CYCLES: cycles an interrupt dispatch reports. -/
  intDispatchCycles : Nat
  /-- EI_DELAY: instructions between EI and master-enable becoming true. -/
  eiDelay : Nat
  /-- WAKE_MASKED_BY_IE: the wake test looks at enabled flags only. -/
  wakeMaskedByIe : Bool
  /-- STOP_WAKE_ANY_FLAG: any interrupt flag ends the stop state. -/
  stopWakeAnyFlag : Bool
  /-- SP_E_FLAGS. -/
  spEFlags : SpEFlags
  /-- JOYPAD_IRQ_ON_RELEASE: a release requests the input interrupt too. -/
  joypadIrqOnRelease : Bool
  /-- SPRITE_PICK. -/
  spritePick : SpritePick
  /-- SampleRate of the audio sink; R9 states no bound (log entry 24 for 0). -/
  sampleRate : Nat
  deriving DecidableEq, Repr, Inhabited

/-- TICKS_PER_MCYCLE of rule R9. -/
def Config.ticksPerMCycle : Nat := 4

/-- The "default" column of rule R9. SampleRate has no default in the spec: 44100 is the value of its
own vectors (95_test_vectors.md 3.6). DESIGN CHOICE (log entry 3), unsafe. -/
def Config.defaultParams : Params where
  clockHz := 4194304
  idleCycles := 4
  intDispatchCycles := 0
  eiDelay := 0
  wakeMaskedByIe := false
  stopWakeAnyFlag := true
  spEFlags := .byte
  joypadIrqOnRelease := false
  spritePick := .table
  sampleRate := 44100

/-- Free input ThrottleDraw (rule R551): the nudge drawn at the n-th emitted sample when the host has
queued none. It has no body, so nothing can be proved of its value (log entry 9). -/
opaque Config.throttleDraw : Nat → Throttle

end Sys2Proof
end

