-- ==== Sys2Proof/Machine/State.lean ====
section
/-! DEFINITION. The state of the machine as plain data: every piece of state that 10_state.md (rules R20
to R89), 20_memory.md (rule R90) and 60_exceptions.md give it, the reset presets of rules R85 to R89,
and the reasons a step can stop. The behaviour of each unit is in the unit's own file. -/

namespace Sys2Proof.Machine

/-! ## Fatal errors and run status (rules R16, R35) -/

/-- The causes of a fatal error (rules R16, R352 to R355). -/
inductive Fatal where
  | outOfRange
  | accessViolation
  | unrecognizedInstruction
  | malformedCartridge
  deriving DecidableEq, Repr, Inhabited

/-- The run status `run` of rule R35. `crashed` and `exited` are terminal. -/
inductive RunStatus where
  | running
  | crashed (cause : Fatal)
  | exited
  deriving DecidableEq, Repr, Inhabited

/-- Why a step is impossible. Both are raised by `step` alone, from a state that rule R35 calls terminal:
no further step exists, so stopping is safe. -/
inductive Fault where
  /-- raised by `step` in the state `run = Crashed(cause)` (rule R356: "no further step exists"); safe -/
  | crashed (cause : Fatal)
  /-- raised by `step` in the state `run = Exited` (rules R35, R388); safe -/
  | exited
  deriving DecidableEq, Repr, Inhabited

/-- Why an instruction has no meaning. -/
inductive Refusal where
  /-- raised by an arm of `exec` whose instruction has no meaning yet; safe. No arm is one. -/
  | notModelled (mnemonic : String)
  deriving DecidableEq, Repr, Inhabited

/-! ## Memory arrays (rule R40) -/

/-- A byte array: (index, byte) pairs with rising indices and no byte 0x00. An unlisted index reads 0x00,
the reset content of every array (rule R87) and the fill of an image. `Memory.wf` says the form. -/
abbrev Memory := List Host.Cell

/-- A byte sequence handed over by the host: a cartridge image or a boot image (rules R386, R561). -/
structure Image where
  bytes : Memory
  len : Nat
  deriving DecidableEq, Repr, Inhabited

/-! ## CPU core (rules R20 to R25) -/

/-- The eight 8-bit registers and the two 16-bit registers. A pair is not separate state (rule R20). -/
structure Regs where
  a : Byte
  f : Byte
  b : Byte
  c : Byte
  d : Byte
  e : Byte
  h : Byte
  l : Byte
  sp : Word
  pc : Word
  deriving DecidableEq, Repr, Inhabited

/-! ## Joypad unit (rule R46) -/

/-- The eight buttons. -/
inductive Button where
  | right | left | up | down | a | b | select | start
  deriving DecidableEq, Repr, Inhabited

/-- One transition of InputEvents (rules R82, R389). -/
structure ButtonEvent where
  button : Button
  pressed : Bool
  deriving DecidableEq, Repr, Inhabited

/-- `pressed[b]`, "the 8-button input register". -/
structure Pressed where
  right : Bool
  left : Bool
  up : Bool
  down : Bool
  a : Bool
  b : Bool
  select : Bool
  start : Bool
  deriving DecidableEq, Repr, Inhabited

/-- P1 as stored (only bits 7 to 4 are; bits 3 to 0 are computed at each read) and the buttons. -/
structure Joypad where
  p1 : Byte
  pressed : Pressed
  deriving DecidableEq, Repr, Inhabited

/-! ## Timer unit (rules R47, R48) -/

structure Timer where
  div : Byte
  tima : Byte
  tma : Byte
  tac : Byte
  divAcc : Nat
  timaAcc : Nat
  deriving DecidableEq, Repr, Inhabited

/-! ## Display unit (rules R51 to R62) -/

/-- "a 4-valued mode" (rule R61). -/
inductive PpuMode where
  | hblank | vblank | oam | transfer
  deriving DecidableEq, Repr, Inhabited

/-- A colour value 0..3. -/
abbrev Shade := BitVec 2

/-- A layer value: a colour, or none for the transparent sentinel T (rule R62). -/
abbrev Dot := Option Shade

/-- A pixel layer: 144 rows of 160 values. -/
abbrev Layer := Vector (Vector Dot 160) 144

/-- A frame buffer: 144 rows of 160 colours. -/
abbrev Frame := Vector (Vector Shade 160) 144

/-- The layer that is T everywhere. -/
def Layer.clear : Layer := Vector.replicate 144 (Vector.replicate 160 none)

/-- The frame that is 0 everywhere. -/
def Frame.blank : Frame := Vector.replicate 144 (Vector.replicate 160 0)

structure Ppu where
  vram : Memory
  oam : Memory
  lcdc : Byte
  /-- STAT as stored: only bits 7 to 3 are (rule R52) -/
  stat : Byte
  scy : Byte
  scx : Byte
  lyc : Byte
  dma : Byte
  bgp : Byte
  obp0 : Byte
  obp1 : Byte
  wy : Byte
  wx : Byte
  mode : PpuMode
  ly : Nat
  col : Nat
  coin : Bool
  statLine : Bool
  acc : Nat
  /-- indices 0..39 of the sprite entries selected for the line -/
  queue : List Nat
  nextSprite : Nat
  bg : Layer
  win : Layer
  sprAbove : Layer
  sprBelow : Layer
  frame : Frame
  deriving DecidableEq, Repr, Inhabited

/-! ## Sound unit (rules R64 to R77) -/

/-- Internal state of a pulse channel (rules R74, R75). -/
structure Pulse where
  enabled : Bool
  periodAcc : Nat
  length : Nat
  volume : Nat
  envCounter : Nat
  dutyPos : Nat
  deriving DecidableEq, Repr, Inhabited

/-- The sweep unit of channel 1 (rule R75). -/
structure Sweep where
  shadow : Nat
  counter : Nat
  on : Bool
  deriving DecidableEq, Repr, Inhabited

/-- Internal state of the wave channel (rules R74, R75). -/
structure Wave where
  enabled : Bool
  periodAcc : Nat
  length : Nat
  wavePos : Nat
  deriving DecidableEq, Repr, Inhabited

/-- Internal state of the noise channel (rules R74, R75). -/
structure Noise where
  enabled : Bool
  periodAcc : Nat
  length : Nat
  volume : Nat
  envCounter : Nat
  lfsr : BitVec 15
  deriving DecidableEq, Repr, Inhabited

/-- The sound registers as stored (rules R64 to R68): bit 7 of NRx4 and bits 3 to 0 of NR52 are never
stored. -/
structure ApuRegs where
  nr10 : Byte
  nr11 : Byte
  nr12 : Byte
  nr13 : Byte
  nr14 : Byte
  nr21 : Byte
  nr22 : Byte
  nr23 : Byte
  nr24 : Byte
  nr30 : Byte
  nr31 : Byte
  nr32 : Byte
  nr33 : Byte
  nr34 : Byte
  nr41 : Byte
  nr42 : Byte
  nr43 : Byte
  nr44 : Byte
  nr50 : Byte
  nr51 : Byte
  nr52 : Byte
  deriving DecidableEq, Repr, Inhabited

structure Apu where
  regs : ApuRegs
  /-- wave RAM, 16 bytes (rule R66) -/
  wave : Memory
  ch1 : Pulse
  sweep : Sweep
  ch2 : Pulse
  ch3 : Wave
  ch4 : Noise
  /-- frame sequencer (rule R76) -/
  fsAcc : Nat
  fsStep : Nat
  /-- resampler (rule R77) -/
  resampleAcc : Nat
  resampleThreshold : Nat
  deriving DecidableEq, Repr, Inhabited

/-! ## Cartridge, bank controller, clock (rules R78, R79, R81) -/

inductive MbcKind where
  | null | mbc1 | mbc2 | mbc3
  deriving DecidableEq, Repr, Inhabited

/-- The five clock registers. -/
structure RtcRegs where
  s : Byte
  m : Byte
  h : Byte
  dl : Byte
  dh : Byte
  deriving DecidableEq, Repr, Inhabited

/-- The names of the clock registers (select codes 0x08 to 0x0C, rule R582). -/
inductive RtcReg where
  | s | m | h | dl | dh
  deriving DecidableEq, Repr, Inhabited

/-- What the 0xA000–0xBFFF window of MBC3 shows. -/
inductive RtcSel where
  | ramBank (v : Nat)
  | reg (q : RtcReg)
  deriving DecidableEq, Repr, Inhabited

structure Cart where
  kind : MbcKind
  rom : Memory
  romLen : Nat
  cram : Memory
  cramLen : Nat
  romBank : Nat
  ramBank : Nat
  ramEnable : Bool
  /-- MBC1's "dual-purpose 2-bit register" -/
  bank2 : Nat
  /-- MBC1's "mode flag" -/
  mode : Bool
  rtc : RtcRegs
  latched : RtcRegs
  rtcSel : RtcSel
  latchPrev : Byte
  rtcAcc : Nat
  deriving DecidableEq, Repr, Inhabited

/-! ## Bus (rules R90, R91, R100, R101) -/

/-- The components that own addresses. `openBus` is no device of the default map: it is what a table whose
"unmapped register addresses [read] 0xFF" (rule R101) names there. -/
inductive BusUnit where
  | bootRom | bootOff | cart | display | workRam | highRam | joypad | timer | cpuCore | sound | openBus
  deriving DecidableEq, Repr, Inhabited

/-- One claim of an inclusive address range. The unit sees an access to `lo` as one to its own address `base`
(rules R105 to R107: `addr - lo` counts from the device's range), so that a second range can show the same
bytes, as a mirror of rule R101 does. -/
structure BusClaim where
  lo : Nat
  hi : Nat
  unit : BusUnit
  base : Nat
  deriving DecidableEq, Repr, Inhabited

/-- The claim by which a unit answers at its own addresses: every claim of the default map. -/
def BusClaim.direct (lo hi : Nat) (unit : BusUnit) : BusClaim := ⟨lo, hi, unit, lo⟩

/-! ## Host boundary (rules R82, R385 to R391) -/

/-- What the host shows at one instruction boundary: its stop flag, its pause flag, and the button
transitions that have arrived since the boundary before. -/
structure HostTick where
  stopFlag : Bool
  pauseFlag : Bool
  arrivals : List ButtonEvent
  deriving DecidableEq, Repr, Inhabited

/-- The inputs of a run as data: the boundaries still to come (past the last one the host shows no flag and
no event), the queue of events not yet consumed, the throttle draws the host has queued, and how many
draws have been taken from the free input. The model's own fields (log entries 8, 9). -/
structure HostPort where
  ticks : List HostTick
  events : List ButtonEvent
  draws : List Throttle
  drawCount : Nat
  deriving DecidableEq, Repr, Inhabited

/-- `frames_out` and `audio_out` (rules R82, R77): what has been handed to the sinks, oldest first. -/
structure Outputs where
  frames : List Frame
  audio : List (Byte × Byte)
  deriving DecidableEq, Repr, Inhabited

end Sys2Proof.Machine

namespace Sys2Proof.Machine

/-- The state of the machine. -/
structure State where
  /-- the parameters of rule R9; no step changes them -/
  params : Params
  /-- rules R20 to R25 -/
  regs : Regs
  /-- master-enable (rule R30) -/
  ime : Bool
  /-- with EI_DELAY > 0, the instructions still to run before an EI takes effect (rule R334) -/
  eiPending : Option Nat
  /-- rule R31 -/
  halt : Bool
  /-- rule R32 -/
  stop : Bool
  /-- IF (rule R33) -/
  ifReg : Byte
  /-- IE (rule R34) -/
  ieReg : Byte
  /-- rule R35 -/
  run : RunStatus
  /-- the cycle cost the last executed instruction reported (rule R350, `cyc`) -/
  cyc : Nat
  /-- `owner` of rule R90 as the list of claims made by `map`, newest first (rule R91) -/
  busMap : List BusClaim
  /-- 0xC000–0xDFFF -/
  wram : Memory
  /-- 0xFF80–0xFFFE -/
  hram : Memory
  /-- BootImage (rule R600) -/
  boot : Option Image
  /-- rule R80 -/
  bootMapped : Bool
  joypad : Joypad
  timer : Timer
  ppu : Ppu
  apu : Apu
  cart : Cart
  host : HostPort
  out : Outputs
  deriving DecidableEq, Repr, Inhabited

end Sys2Proof.Machine

namespace Sys2Proof

/-- Free value: the registers, flags and memory of a crashed state, given what the accesses that completed
before the failing one left (rule R356: "a model should treat all of that as `any value`"; U3). It has no
body, so nothing can be proved of it (log entry 6). -/
opaque Config.crashedContents : Machine.State → Machine.State

namespace Machine

/-! ## Reset (rules R84 to R89, R611 to R613) -/

/-- The default BusMap of rule R100 without the boot overlay, newest claim first. BusMap is an argument of
construction (rules R9, R101): another table is another list of claims. -/
def defaultUnits : List BusClaim :=
  [.direct 0x0000 0x3FFF .cart, .direct 0x4000 0x7FFF .cart, .direct 0x8000 0x9FFF .display,
   .direct 0xA000 0xBFFF .cart, .direct 0xC000 0xDFFF .workRam, .direct 0xFE00 0xFE9F .display,
   .direct 0xFF00 0xFF00 .joypad, .direct 0xFF04 0xFF07 .timer, .direct 0xFF0F 0xFF0F .cpuCore,
   .direct 0xFF10 0xFF3F .sound, .direct 0xFF40 0xFF4B .display, .direct 0xFF80 0xFFFE .highRam,
   .direct 0xFFFF 0xFFFF .cpuCore]

/-- The claims of the boot overlay (rules R100, R600). -/
def bootOverlay : List BusClaim := [.direct 0x0000 0x00FF .bootRom, .direct 0xFF50 0xFF50 .bootOff]

/-- What the bus holds for a BusMap `m`: the boot overlay mapped last if there is a boot image (rules R600,
R611), and over it, once it is unmapped, the bank controller's claim of rule R601. -/
def busTable (m : List BusClaim) (bootPresent bootMapped : Bool) : List BusClaim :=
  if bootPresent then
    if bootMapped then bootOverlay ++ m else .direct 0x0000 0x00FF .cart :: (bootOverlay ++ m)
  else m

/-- The state of the bank controller that a reset sets (rules R78, R79, R81). -/
structure BankReset where
  romBank : Nat
  ramBank : Nat
  ramEnable : Bool
  bank2 : Nat
  mode : Bool
  rtc : RtcRegs
  latched : RtcRegs
  rtcSel : RtcSel
  latchPrev : Byte
  rtcAcc : Nat
  deriving DecidableEq, Repr, Inhabited

/-- Rule R89, both presets. -/
def BankReset.preset : BankReset where
  romBank := 1
  ramBank := 0
  ramEnable := false
  bank2 := 0
  mode := false
  rtc := ⟨0, 0, 0, 0, 0⟩
  latched := ⟨0, 0, 0, 0, 0⟩
  rtcSel := .ramBank 0
  latchPrev := 0xFF
  rtcAcc := 0

/-- What the image and the host give the cartridge: kind and RAM size from the header (rules R563, R564), the
image, the first contents of the RAM (rule R87). -/
structure CartMedia where
  kind : MbcKind
  rom : Image
  cram : Memory
  cramLen : Nat
  deriving DecidableEq, Repr, Inhabited

/-- The bank controller at reset. -/
def Cart.load (d : CartMedia) (b : BankReset) : Cart where
  kind := d.kind
  rom := d.rom.bytes
  romLen := d.rom.len
  cram := d.cram
  cramLen := d.cramLen
  romBank := b.romBank
  ramBank := b.ramBank
  ramEnable := b.ramEnable
  bank2 := b.bank2
  mode := b.mode
  rtc := b.rtc
  latched := b.latched
  rtcSel := b.rtcSel
  latchPrev := b.latchPrev
  rtcAcc := b.rtcAcc

/-- Every button released. -/
def Pressed.none : Pressed := ⟨false, false, false, false, false, false, false, false⟩

/-- A pulse channel at reset (rule R88). -/
def Pulse.fresh (enabled : Bool) : Pulse := ⟨enabled, 0, 0, 0, 0, 0⟩

/-- The display unit at reset (rules R87, R88), with the registers all 0. -/
def Ppu.fresh : Ppu where
  vram := []
  oam := []
  lcdc := 0
  stat := 0
  scy := 0
  scx := 0
  lyc := 0
  dma := 0
  bgp := 0
  obp0 := 0
  obp1 := 0
  wy := 0
  wx := 0
  mode := .hblank
  ly := 0
  col := 0
  coin := false
  statLine := false
  acc := 0
  queue := []
  nextSprite := 0
  bg := Layer.clear
  win := Layer.clear
  sprAbove := Layer.clear
  sprBelow := Layer.clear
  frame := Frame.blank

/-- The sound unit at reset (rules R87, R88), with the registers all 0. For SampleRate = 0, where the quotient of R88 is
undefined and R9 states no bound, `resampleThreshold` is 0: DESIGN CHOICE, unsafe there (log entry 24). -/
def Apu.fresh (params : Params) : Apu where
  regs := ⟨0, 0, 0, 0, 0, 0, 0, 0, 0, 0, 0, 0, 0, 0, 0, 0, 0, 0, 0, 0, 0⟩
  wave := []
  ch1 := Pulse.fresh false
  sweep := ⟨0, 0, false⟩
  ch2 := Pulse.fresh false
  ch3 := ⟨false, 0, 0, 0⟩
  ch4 := ⟨false, 0, 0, 0, 0, 0x7FFF⟩
  fsAcc := 0
  fsStep := 0
  resampleAcc := 0
  resampleThreshold := params.clockHz / params.sampleRate

/-- ResetState of rules R9 and R84: "initial values of all state". Not in it: what the image and the header fix
(`CartMedia`), `run` (rule R611: Running), the outputs of the new instance (rule R88: empty), and what is the
host's (rule R613). -/
structure ResetState where
  regs : Regs
  ime : Bool
  eiPending : Option Nat
  halt : Bool
  stop : Bool
  ifReg : Byte
  ieReg : Byte
  wram : Memory
  hram : Memory
  bootMapped : Bool
  joypad : Joypad
  timer : Timer
  ppu : Ppu
  apu : Apu
  bank : BankReset
  deriving DecidableEq, Repr, Inhabited

/-- Preset RESET_BOOT (rules R85, R87, R88, R89): a boot image is present. -/
def ResetState.presetBoot (params : Params) : ResetState where
  regs := ⟨0, 0, 0, 0, 0, 0, 0, 0, 0x0000, 0x0000⟩
  ime := false
  eiPending := none
  halt := false
  stop := false
  ifReg := 0
  ieReg := 0
  wram := []
  hram := []
  bootMapped := true
  joypad := ⟨0, Pressed.none⟩
  timer := ⟨0, 0, 0, 0, 0, 0⟩
  ppu := Ppu.fresh
  apu := Apu.fresh params
  bank := BankReset.preset

/-- Preset RESET_NOBOOT (rules R86 to R89): no boot image. `boot_mapped` has no meaning there (rule R80). Of STAT
rule R86 gives bits 6 to 3 only; bit 7, stored without function (rule R45), starts as 0: DESIGN CHOICE (log
entry 4), unsafe. -/
def ResetState.presetNoBoot (params : Params) : ResetState where
  regs := ⟨0x01, 0xB0, 0x00, 0x13, 0x00, 0xD8, 0x01, 0x4D, 0xFFFE, 0x0100⟩
  ime := false
  eiPending := none
  halt := false
  stop := false
  ifReg := 0x01
  ieReg := 0
  wram := []
  hram := []
  bootMapped := false
  joypad := ⟨0x30, Pressed.none⟩
  timer := ⟨0xAB, 0, 0, 0, 0, 0⟩
  ppu := { Ppu.fresh with lcdc := 0x91, dma := 0xFF, bgp := 0xFC, obp0 := 0xFF, obp1 := 0xFF, mode := .oam }
  apu := { Apu.fresh params with
    regs := ⟨0x80, 0xBF, 0xF3, 0xFF, 0x3F, 0x3F, 0x00, 0xFF, 0x3F, 0x7F, 0xFF, 0x9F, 0xFF, 0x3F,
      0xFF, 0x00, 0x00, 0x3F, 0x77, 0xF3, 0x80⟩
    ch1 := Pulse.fresh true }
  bank := BankReset.preset

/-- A host that shows nothing and has queued nothing. -/
def HostPort.quiet : HostPort := ⟨[], [], [], 0⟩

/-- Steps 2 to 4 of rule R611: all units with the state `r`, the bus with the BusMap `m`, `run <- Running`. -/
def State.create (params : Params) (m : List BusClaim) (boot : Option Image) (d : CartMedia) (host : HostPort)
    (r : ResetState) : State where
  params := params
  regs := r.regs
  ime := r.ime
  eiPending := r.eiPending
  halt := r.halt
  stop := r.stop
  ifReg := r.ifReg
  ieReg := r.ieReg
  run := .running
  cyc := 0
  busMap := busTable m boot.isSome r.bootMapped
  wram := r.wram
  hram := r.hram
  boot := boot
  bootMapped := r.bootMapped
  joypad := r.joypad
  timer := r.timer
  ppu := r.ppu
  apu := r.apu
  cart := Cart.load d r.bank
  host := host
  out := ⟨[], []⟩

/-- The default machine of preset RESET_BOOT. -/
def State.resetBoot (params : Params) (d : CartMedia) (boot : Image) : State :=
  State.create params defaultUnits (some boot) d HostPort.quiet (ResetState.presetBoot params)

/-- The default machine of preset RESET_NOBOOT. -/
def State.resetNoBoot (params : Params) (d : CartMedia) : State :=
  State.create params defaultUnits none d HostPort.quiet (ResetState.presetNoBoot params)

/-- The cartridge of the spec's own vectors (95_test_vectors.md, start state T0): 0x8000 bytes, all 0x00, so
that the header reads ROM only (0x147) and no RAM (0x149). CartImage is an argument of the machine;
standing at this blank one in `State.reset` is a DESIGN CHOICE (log entry 2), unsafe. -/
def blankImage : Image := ⟨[], 0x8000⟩

/-- The machine right after reset: no boot image, the blank cartridge, the default parameters, hence
preset RESET_NOBOOT. `construct` (Machine/Construct.lean) is the reset of any other machine. -/
def State.reset : State :=
  State.resetNoBoot Config.defaultParams ⟨.null, blankImage, [], 0⟩

end Machine

end Sys2Proof
end

