-- ==== Sys2Proof/Machine/Memory.lean ====
section
/-! DEFINITION. The byte arrays of rule R40 as lists in one canonical form: indices strictly rising, no byte
0x00 listed. An unlisted index reads 0x00: the RAM arrays "are filled with 0x00" at reset (rule R87), and
an image lists its non-zero bytes. -/

namespace Sys2Proof.Machine

/-- `buf[i]`. -/
def Memory.read : Memory → Nat → Byte
  | [], _ => 0
  | (k, v) :: rest, i => if k = i then v else Memory.read rest i

/-- `buf[i] <- v`, keeping the canonical form. -/
def Memory.write : Memory → Nat → Byte → Memory
  | [], i, v => if v = 0 then [] else [(i, v)]
  | (k, w) :: rest, i, v =>
    if i < k then
      if v = 0 then (k, w) :: rest else (i, v) :: (k, w) :: rest
    else if i = k then
      if v = 0 then rest else (i, v) :: rest
    else (k, w) :: Memory.write rest i v

/-- Every listed index is above `k`. -/
def Memory.above (k : Nat) : Memory → Bool
  | [] => true
  | (j, _) :: rest => decide (k < j) && Memory.above k rest

/-- The canonical form. -/
def Memory.wf : Memory → Bool
  | [] => true
  | (k, v) :: rest => decide (v ≠ 0) && Memory.above k rest && Memory.wf rest

/-- The array that holds the bytes of a list from index `i` up. -/
def Memory.ofBytes : Nat → List Byte → Memory
  | _, [] => []
  | i, v :: rest => Memory.write (Memory.ofBytes (i + 1) rest) i v

/-- Read of a ROM or RAM storage device with a window offset (rule R107): index `i` of a buffer of `len`
bytes, `OutOfRange` past its end. -/
def Memory.readWithin (m : Memory) (len i : Nat) : Except Fatal Byte :=
  if i < len then .ok (m.read i) else .error .outOfRange

end Sys2Proof.Machine
end

