-- ==== Sys2Proof/Machine/Apu.lean ====
section
/-! DEFINITION. The sound unit (63_apu.md, rules R490 to R552). -/

namespace Sys2Proof.Machine

/-! ## Registers (rules R45, R64 to R68) -/

/-- The registers at 0xFF10 to 0xFF26. -/
inductive ApuReg where
  | nr10 | nr11 | nr12 | nr13 | nr14
  | nr21 | nr22 | nr23 | nr24
  | nr30 | nr31 | nr32 | nr33 | nr34
  | nr41 | nr42 | nr43 | nr44
  | nr50 | nr51 | nr52
  deriving DecidableEq, Repr

/-- Rule R45; 0xFF15, 0xFF1F and 0xFF27 to 0xFF2F hold no register (rules R103, R490). -/
def apuRegAt (a : Nat) : Option ApuReg :=
  [(0xFF10, ApuReg.nr10), (0xFF11, .nr11), (0xFF12, .nr12), (0xFF13, .nr13), (0xFF14, .nr14),
   (0xFF16, .nr21), (0xFF17, .nr22), (0xFF18, .nr23), (0xFF19, .nr24),
   (0xFF1A, .nr30), (0xFF1B, .nr31), (0xFF1C, .nr32), (0xFF1D, .nr33), (0xFF1E, .nr34),
   (0xFF20, .nr41), (0xFF21, .nr42), (0xFF22, .nr43), (0xFF23, .nr44),
   (0xFF24, .nr50), (0xFF25, .nr51), (0xFF26, .nr52)].lookup a

/-- The stored byte of a register. -/
def ApuRegs.get (r : ApuRegs) : ApuReg → Byte
  | .nr10 => r.nr10
  | .nr11 => r.nr11
  | .nr12 => r.nr12
  | .nr13 => r.nr13
  | .nr14 => r.nr14
  | .nr21 => r.nr21
  | .nr22 => r.nr22
  | .nr23 => r.nr23
  | .nr24 => r.nr24
  | .nr30 => r.nr30
  | .nr31 => r.nr31
  | .nr32 => r.nr32
  | .nr33 => r.nr33
  | .nr34 => r.nr34
  | .nr41 => r.nr41
  | .nr42 => r.nr42
  | .nr43 => r.nr43
  | .nr44 => r.nr44
  | .nr50 => r.nr50
  | .nr51 => r.nr51
  | .nr52 => r.nr52

/-- What a write stores (rule R492): NRx4 without bit 7, NR52 in bits 7 to 4 only, else the byte. -/
def ApuRegs.store (r : ApuRegs) (q : ApuReg) (v : Byte) : ApuRegs :=
  match q with
  | .nr10 => { r with nr10 := v }
  | .nr11 => { r with nr11 := v }
  | .nr12 => { r with nr12 := v }
  | .nr13 => { r with nr13 := v }
  | .nr14 => { r with nr14 := v &&& 0x7F }
  | .nr21 => { r with nr21 := v }
  | .nr22 => { r with nr22 := v }
  | .nr23 => { r with nr23 := v }
  | .nr24 => { r with nr24 := v &&& 0x7F }
  | .nr30 => { r with nr30 := v }
  | .nr31 => { r with nr31 := v }
  | .nr32 => { r with nr32 := v }
  | .nr33 => { r with nr33 := v }
  | .nr34 => { r with nr34 := v &&& 0x7F }
  | .nr41 => { r with nr41 := v }
  | .nr42 => { r with nr42 := v }
  | .nr43 => { r with nr43 := v }
  | .nr44 => { r with nr44 := v &&& 0x7F }
  | .nr50 => { r with nr50 := v }
  | .nr51 => { r with nr51 := v }
  | .nr52 => { r with nr52 := mergeBits 0xF0 r.nr52 v }

/-- NR52 bit 7: sound unit on. -/
def Apu.on (u : Apu) : Bool := bitOf u.regs.nr52 7

/-- Bits 3 to 0 of NR52: `enabled` of channels 4 to 1 (rule R491). -/
def Apu.statusBits (u : Apu) : Byte :=
  BitVec.ofNat 8 (u.ch1.enabled.toNat + 2 * u.ch2.enabled.toNat + 4 * u.ch3.enabled.toNat +
    8 * u.ch4.enabled.toNat)

/-- Register reads (rule R491): the stored byte, bit 7 of NRx4 as 0, and the status bits of NR52. -/
def Apu.readReg (u : Apu) (q : ApuReg) : Byte :=
  match q with
  | .nr52 => (u.regs.nr52 &&& 0xF0) ||| u.statusBits
  | .nr14 | .nr24 | .nr34 | .nr44 => u.regs.get q &&& 0x7F
  | _ => u.regs.get q

/-- A read of an address the sound unit owns (rules R490, R491). -/
def Apu.readAt (u : Apu) (a : Nat) : Except Fatal Byte :=
  if 0xFF30 ≤ a ∧ a < 0xFF40 then .ok (u.wave.read (a - 0xFF30))
  else
    match apuRegAt a with
    | some q => .ok (u.readReg q)
    | none => .error .outOfRange

/-! ## Register fields -/

/-- The 11-bit frequency from NRx4 and NRx3 (rule R64). -/
def freqOf (nrx4 nrx3 : Byte) : Nat := fieldOf nrx4 0 3 * 256 + nrx3.toNat

/-- The length a write of NRx1 or a trigger loads for channels 1, 2, 4. -/
def lengthLoad (nrx1 : Byte) : Nat := 64 - fieldOf nrx1 0 6

/-- The length a write of NR31 or a trigger loads for channel 3. -/
def waveLengthLoad (nr31 : Byte) : Nat := 256 - nr31.toNat

/-! ## Trigger (rule R510) -/

/-- The part of a trigger that the pulse channels share. -/
def Pulse.trigger (nrx1 nrx2 : Byte) : Pulse where
  enabled := true
  periodAcc := 0
  length := lengthLoad nrx1
  volume := fieldOf nrx2 4 4
  envCounter := fieldOf nrx2 0 3
  dutyPos := 0

/-- `trigger(1)`. -/
def Apu.trigger1 (u : Apu) : Apu :=
  if u.on then
    { u with
      ch1 := Pulse.trigger u.regs.nr11 u.regs.nr12
      sweep :=
        { shadow := freqOf u.regs.nr14 u.regs.nr13
          counter := fieldOf u.regs.nr10 4 3
          on := decide (fieldOf u.regs.nr10 4 3 ≠ 0 ∨ fieldOf u.regs.nr10 0 3 ≠ 0) } }
  else u

/-- `trigger(2)`. -/
def Apu.trigger2 (u : Apu) : Apu :=
  if u.on then { u with ch2 := Pulse.trigger u.regs.nr21 u.regs.nr22 } else u

/-- `trigger(3)`. -/
def Apu.trigger3 (u : Apu) : Apu :=
  if u.on then
    { u with
      ch3 :=
        { enabled := bitOf u.regs.nr30 7
          periodAcc := 0
          length := waveLengthLoad u.regs.nr31
          wavePos := 0 } }
  else u

/-- `trigger(4)`. -/
def Apu.trigger4 (u : Apu) : Apu :=
  if u.on then
    { u with
      ch4 :=
        { enabled := true
          periodAcc := 0
          length := lengthLoad u.regs.nr41
          volume := fieldOf u.regs.nr42 4 4
          envCounter := fieldOf u.regs.nr42 0 3
          lfsr := 0x7FFF } }
  else u

/-! ## Writes (rules R492, R493) -/

/-- The channels silenced: all four `enabled <- false`. -/
def Apu.disableAll (u : Apu) : Apu :=
  { u with
    ch1 := { u.ch1 with enabled := false }
    ch2 := { u.ch2 with enabled := false }
    ch3 := { u.ch3 with enabled := false }
    ch4 := { u.ch4 with enabled := false } }

/-- The effect of the new bit 7 of NR52, `was` being the old one (rule R493). -/
def Apu.switched (u : Apu) (was : Bool) : Apu :=
  match was, u.on with
  | true, false => u.disableAll
  | false, true => { u with fsAcc := 0, fsStep := 0 }
  | _, _ => u

/-- A register write: the byte is stored, then the register's effect happens. -/
def Apu.writeReg (u : Apu) (q : ApuReg) (v : Byte) : Apu :=
  let w := { u with regs := u.regs.store q v }
  match q with
  | .nr11 => { w with ch1 := { w.ch1 with length := lengthLoad v } }
  | .nr21 => { w with ch2 := { w.ch2 with length := lengthLoad v } }
  | .nr31 => { w with ch3 := { w.ch3 with length := waveLengthLoad v } }
  | .nr41 => { w with ch4 := { w.ch4 with length := lengthLoad v } }
  | .nr30 => if bitOf v 7 then w else { w with ch3 := { w.ch3 with enabled := false } }
  | .nr14 => if bitOf v 7 then w.trigger1 else w
  | .nr24 => if bitOf v 7 then w.trigger2 else w
  | .nr34 => if bitOf v 7 then w.trigger3 else w
  | .nr44 => if bitOf v 7 then w.trigger4 else w
  | .nr52 => w.switched u.on
  | _ => w

/-- A write of an address the sound unit owns. -/
def Apu.writeAt (u : Apu) (a : Nat) (v : Byte) : Except Fatal Apu :=
  if 0xFF30 ≤ a ∧ a < 0xFF40 then .ok { u with wave := u.wave.write (a - 0xFF30) v }
  else
    match apuRegAt a with
    | some q => .ok (u.writeReg q v)
    | none => .error .outOfRange

/-! ## Frame sequencer (rules R501 to R504) -/

/-- The counter part of `length_tick`: the new length, and whether it reached zero. -/
def lengthStep (enable : Bool) (length : Nat) : Nat × Bool :=
  if enable = true ∧ 0 < length then (length - 1, decide (length - 1 = 0)) else (length, false)

/-- `length_tick(ch)` of a pulse channel (rule R502). -/
def Pulse.lengthTick (c : Pulse) (nrx4 : Byte) : Pulse :=
  let r := lengthStep (bitOf nrx4 6) c.length
  { c with length := r.1, enabled := c.enabled && !r.2 }

/-- `length_tick(3)`. -/
def Wave.lengthTick (c : Wave) (nr34 : Byte) : Wave :=
  let r := lengthStep (bitOf nr34 6) c.length
  { c with length := r.1, enabled := c.enabled && !r.2 }

/-- `length_tick(4)`. -/
def Noise.lengthTick (c : Noise) (nr44 : Byte) : Noise :=
  let r := lengthStep (bitOf nr44 6) c.length
  { c with length := r.1, enabled := c.enabled && !r.2 }

/-- `length_tick(ch)` for the four channels. -/
def Apu.lengthTicks (u : Apu) : Apu :=
  { u with
    ch1 := u.ch1.lengthTick u.regs.nr14
    ch2 := u.ch2.lengthTick u.regs.nr24
    ch3 := u.ch3.lengthTick u.regs.nr34
    ch4 := u.ch4.lengthTick u.regs.nr44 }

/-- `envelope_tick` on (volume, env_counter) with the channel's NRx2 (rule R503). -/
def envelopeStep (nrx2 : Byte) (volume counter : Nat) : Nat × Nat :=
  let p := fieldOf nrx2 0 3
  if p ≠ 0 ∧ 0 < counter then
    if counter - 1 = 0 then
      (if bitOf nrx2 3 then (if volume < 15 then volume + 1 else volume) else volume - 1, p)
    else (volume, counter - 1)
  else (volume, counter)

/-- `envelope_tick(ch)` of a pulse channel. -/
def Pulse.envelopeTick (c : Pulse) (nrx2 : Byte) : Pulse :=
  { c with
    volume := (envelopeStep nrx2 c.volume c.envCounter).1
    envCounter := (envelopeStep nrx2 c.volume c.envCounter).2 }

/-- `envelope_tick(4)`. -/
def Noise.envelopeTick (c : Noise) (nr42 : Byte) : Noise :=
  { c with
    volume := (envelopeStep nr42 c.volume c.envCounter).1
    envCounter := (envelopeStep nr42 c.volume c.envCounter).2 }

/-- `envelope_tick(ch)` for channels 1, 2 and 4. -/
def Apu.envelopeTicks (u : Apu) : Apu :=
  { u with
    ch1 := u.ch1.envelopeTick u.regs.nr12
    ch2 := u.ch2.envelopeTick u.regs.nr22
    ch4 := u.ch4.envelopeTick u.regs.nr42 }

/-- `new` of rule R504: `shadow ± (shadow >> shift)`. -/
def sweepNext (nr10 : Byte) (shadow : Nat) : Nat :=
  let d := shadow / 2 ^ fieldOf nr10 0 3
  if bitOf nr10 3 then shadow - d else shadow + d

/-- The recalculation of rule R504, when the sweep counter has run out: an overflow past 11 bits disables
the channel; else a nonzero shift writes the frequency back to the shadow, NR13 and NR14. -/
def Apu.sweepRecalc (u : Apu) : Apu :=
  let new := sweepNext u.regs.nr10 u.sweep.shadow
  if 2047 < new then { u with ch1 := { u.ch1 with enabled := false } }
  else if fieldOf u.regs.nr10 0 3 ≠ 0 then
    { u with
      sweep := { u.sweep with shadow := new }
      regs := { u.regs with
        nr13 := BitVec.ofNat 8 new
        nr14 := mergeBits 0x07 u.regs.nr14 (BitVec.ofNat 8 (new / 256)) } }
  else u

/-- `sweep_tick()` of rule R504. -/
def Apu.sweepTick (u : Apu) : Apu :=
  let sp := fieldOf u.regs.nr10 4 3
  if u.sweep.on = true ∧ sp ≠ 0 then
    if u.sweep.counter - 1 = 0 then Apu.sweepRecalc { u with sweep := { u.sweep with counter := sp } }
    else { u with sweep := { u.sweep with counter := u.sweep.counter - 1 } }
  else u

/-- `fs_tick()` of rule R501. -/
def Apu.fsTick (u : Apu) : Apu :=
  let u1 := if u.fsStep % 2 = 0 then u.lengthTicks else u
  let u2 := if u.fsStep = 2 ∨ u.fsStep = 6 then u1.sweepTick else u1
  let u3 := if u.fsStep = 7 then u2.envelopeTicks else u2
  { u3 with fsStep := (u.fsStep + 1) % 8 }

/-! ## Channels (rules R520 to R531) -/

/-- `pulse_advance` (rule R520). -/
def Pulse.advance (c : Pulse) (freq cyc : Nat) : Pulse :=
  let period := (2048 - freq) * 4
  { c with
    periodAcc := leftover (c.periodAcc + cyc) period
    dutyPos := (c.dutyPos + crossings (c.periodAcc + cyc) period) % 8 }

/-- `wave_advance` (rule R525). -/
def Wave.advance (c : Wave) (freq cyc : Nat) : Wave :=
  let period := (2048 - freq) * 2
  { c with
    periodAcc := leftover (c.periodAcc + cyc) period
    wavePos := (c.wavePos + crossings (c.periodAcc + cyc) period) % 32 }

/-- `div(r)` of rule R530. -/
def noiseDivisor (r : Nat) : Nat := if r = 0 then 8 else 16 * r

/-- The noise period of rule R530. -/
def noisePeriod (nr43 : Byte) : Nat := noiseDivisor (fieldOf nr43 0 3) * 2 ^ fieldOf nr43 4 4

/-- `lfsr_step()` of rule R531. -/
def lfsrStep (narrow : Bool) (l : BitVec 15) : BitVec 15 :=
  let x : BitVec 15 := if l.getLsbD 0 != l.getLsbD 1 then 1 else 0
  let m := (l >>> 1) ||| (x <<< 14)
  if narrow then (m &&& ~~~(0x40 : BitVec 15)) ||| (x <<< 6) else m

/-- `noise_advance` (rule R530). -/
def Noise.advance (c : Noise) (nr43 : Byte) (cyc : Nat) : Noise :=
  { c with
    periodAcc := leftover (c.periodAcc + cyc) (noisePeriod nr43)
    lfsr := (lfsrStep (bitOf nr43 3))^[crossings (c.periodAcc + cyc) (noisePeriod nr43)] c.lfsr }

/-- `FS_PERIOD = CLOCK_HZ / 512` (rule R501), exact at the default CLOCK_HZ. Rounded down for a CLOCK_HZ that is no
multiple of 512, where the spec states no rounding: DESIGN CHOICE, unsafe there (log entry 11). -/
def fsPeriod (clockHz : Nat) : Nat := clockHz / 512

/-- The part of rule R500 that runs while the unit is on: the frame sequencer, then the channels in order. -/
def Apu.advanceChannels (u : Apu) (clockHz cyc : Nat) : Apu :=
  if u.on then
    let total := u.fsAcc + cyc
    let w := Apu.fsTick^[crossings total (fsPeriod clockHz)]
      { u with fsAcc := leftover total (fsPeriod clockHz) }
    { w with
      ch1 := w.ch1.advance (freqOf w.regs.nr14 w.regs.nr13) cyc
      ch2 := w.ch2.advance (freqOf w.regs.nr24 w.regs.nr23) cyc
      ch3 := w.ch3.advance (freqOf w.regs.nr34 w.regs.nr33) cyc
      ch4 := w.ch4.advance w.regs.nr43 cyc }
  else u

/-! ## Output (rules R521, R545 to R551) -/

/-- The duty table of rule R521, as the bits for `duty_pos` 0 to 7. -/
def dutyTable (code pos : Nat) : Nat :=
  match code with
  | 0 => [0, 0, 0, 0, 0, 0, 0, 1].getD pos 0
  | 1 => [1, 0, 0, 0, 0, 0, 0, 1].getD pos 0
  | 2 => [1, 0, 0, 0, 0, 1, 1, 1].getD pos 0
  | _ => [0, 1, 1, 1, 1, 1, 1, 0].getD pos 0

/-- `s_n` of a pulse channel (rule R521). -/
def Pulse.sample (c : Pulse) (nrx1 : Byte) : Nat :=
  if c.enabled then c.volume * dutyTable (fieldOf nrx1 6 2) c.dutyPos else 0

/-- `w(j)`: sample `j` of the wave table (rules R66, R525). -/
def waveNibble (wave : Memory) (j : Nat) : Nat :=
  if j % 2 = 0 then fieldOf (wave.read (j / 2)) 4 4 else fieldOf (wave.read (j / 2)) 0 4

/-- The right shift of a volume code (rule R525). -/
def waveShift (code : Nat) : Nat :=
  match code with
  | 0 => 4
  | 1 => 0
  | 2 => 1
  | _ => 2

/-- `s_3` (rule R525). -/
def Wave.sample (c : Wave) (wave : Memory) (nr32 : Byte) : Nat :=
  if c.enabled then waveNibble wave c.wavePos / 2 ^ waveShift (fieldOf nr32 5 2) else 0

/-- `s_4` (rule R531). -/
def Noise.sample (c : Noise) : Nat :=
  if c.enabled then c.volume * (1 - (c.lfsr.getLsbD 0).toNat) else 0

/-- One side of rule R545: the master volume plus the gated samples, `gate` holding the routing bits from
bit `lo` up. -/
def mixSide (master : Nat) (gate : Byte) (lo s1 s2 s3 s4 : Nat) : Nat :=
  master + (bitOf gate lo).toNat * s1 + (bitOf gate (lo + 1)).toNat * s2 +
    (bitOf gate (lo + 2)).toNat * s3 + (bitOf gate (lo + 3)).toNat * s4

/-- The pair (left, right) at this instant (rules R545, R493). -/
def Apu.mix (u : Apu) : Byte × Byte :=
  if u.on then
    let s1 := u.ch1.sample u.regs.nr11
    let s2 := u.ch2.sample u.regs.nr21
    let s3 := u.ch3.sample u.wave u.regs.nr32
    let s4 := u.ch4.sample
    (BitVec.ofNat 8 (mixSide (fieldOf u.regs.nr50 4 3) u.regs.nr51 4 s1 s2 s3 s4),
     BitVec.ofNat 8 (mixSide (fieldOf u.regs.nr50 0 3) u.regs.nr51 0 s1 s2 s3 s4))
  else (0, 0)

/-- `max(1, threshold + d)` of rule R551. -/
def nudge (threshold : Nat) : Throttle → Nat
  | .down => max 1 (threshold - 1)
  | .keep => max 1 threshold
  | .up => max 1 (threshold + 1)

/-- The sound unit with the samples it has handed to the sink and the throttle draws. -/
structure ApuIo where
  apu : Apu
  audio : List (Byte × Byte)
  host : HostPort

/-- The next value of ThrottleDraw: the one the host queued, or the free input (rule R551). -/
def HostPort.draw (h : HostPort) : Throttle × HostPort :=
  match h.draws with
  | d :: rest => (d, { h with draws := rest })
  | [] => (Config.throttleDraw h.drawCount, { h with drawCount := h.drawCount + 1 })

/-- `emit_sample(); throttle()` after the threshold is subtracted (rules R500, R550, R551). -/
def ApuIo.emit (x : ApuIo) : ApuIo :=
  let d := x.host.draw
  { apu := { x.apu with
      resampleAcc := x.apu.resampleAcc - x.apu.resampleThreshold
      resampleThreshold := nudge x.apu.resampleThreshold d.1 }
    audio := x.audio ++ [x.apu.mix]
    host := d.2 }

/-- The resampler loop of rule R500, at most `fuel` rounds. -/
def ApuIo.resample : Nat → ApuIo → ApuIo
  | 0, x => x
  | fuel + 1, x =>
    if x.apu.resampleThreshold ≤ x.apu.resampleAcc then ApuIo.resample fuel x.emit else x

/-- `sound.advance(cyc)` of rule R500. Every round but a first one at threshold 0 subtracts at least 1, so
`acc + 1` rounds are enough. -/
def ApuIo.advance (x : ApuIo) (clockHz cyc : Nat) : ApuIo :=
  let u := x.apu.advanceChannels clockHz cyc
  let total := u.resampleAcc + cyc
  ApuIo.resample (total + 1) { x with apu := { u with resampleAcc := total } }

/-- `sound.advance(cyc)` on the machine. -/
def State.soundAdvance (s : State) (cyc : Nat) : State :=
  let x := ApuIo.advance ⟨s.apu, s.out.audio, s.host⟩ s.params.clockHz cyc
  { s with apu := x.apu, host := x.host, out := { s.out with audio := x.audio } }

end Sys2Proof.Machine
end

