-- ==== Sys2Proof/Machine/Cartridge.lean ====
section
/-! DEFINITION. The bank controllers, the real-time clock and the boot overlay's read (64_cartridge.md,
rules R560 to R605). -/

namespace Sys2Proof.Machine

/-! ## Loading (rules R561 to R564) -/

/-- `kind` from the byte at 0x147 (rule R563); none for an unsupported code. -/
def kindOfCode (code : Byte) : Option MbcKind :=
  match code.toNat with
  | 0x00 => some .null
  | 0x01 | 0x02 | 0x03 => some .mbc1
  | 0x05 | 0x06 => some .mbc2
  | 0x0F | 0x10 | 0x11 | 0x12 | 0x13 => some .mbc3
  | _ => none

/-- `cram` size from the byte at 0x149 (rule R564); none for an invalid code. -/
def ramSizeOfCode (code : Byte) : Option Nat :=
  match code.toNat with
  | 0x00 => some 0
  | 0x01 => some 2048
  | 0x02 => some 8192
  | 0x03 => some 32768
  | _ => none

/-- The entries of `cram`: 512 for MBC2, whose RAM code is not used; else by the RAM code (rule R564). -/
def cramSize (kind : MbcKind) (code : Byte) : Option Nat :=
  match kind with
  | .mbc2 => some 512
  | _ => ramSizeOfCode code

/-- What the loader derives from the image: kind and RAM size, or `MalformedCartridge` (rules R561, R563,
R564, R355). -/
def loadHeader (rom : Image) : Except Fatal (MbcKind × Nat) :=
  if rom.len < 0x14A then .error .malformedCartridge
  else
    match kindOfCode (rom.bytes.read 0x147) with
    | none => .error .malformedCartridge
    | some kind =>
      match cramSize kind (rom.bytes.read 0x149) with
      | none => .error .malformedCartridge
      | some n => .ok (kind, n)

/-! ## Windows (rules R566 to R568, R579, R585) -/

/-- Whether the RAM window is enabled; NullMBC's flag "is constantly true" (rule R568). -/
def Cart.ramOn (c : Cart) : Bool :=
  match c.kind with
  | .null => true
  | _ => c.ramEnable

/-- Index into `rom` of a bus address below 0x8000 (rules R566, R567). -/
def Cart.romIndex (c : Cart) (a : Nat) : Nat :=
  if a < 0x4000 then a else 0x4000 * c.romBank + (a - 0x4000)

/-- Index into `cram` of a bus address in 0xA000–0xBFFF for a RAM bank (rules R566, R568). -/
def Cart.ramIndex (c : Cart) (a : Nat) : Nat := 0x2000 * c.ramBank + (a - 0xA000)

/-- `latched.q`. -/
def RtcRegs.get (r : RtcRegs) : RtcReg → Byte
  | .s => r.s
  | .m => r.m
  | .h => r.h
  | .dl => r.dl
  | .dh => r.dh

/-- A write of a live clock register with the masks of rule R585. -/
def RtcRegs.set (r : RtcRegs) (q : RtcReg) (v : Byte) : RtcRegs :=
  match q with
  | .s => { r with s := v &&& 0x3F }
  | .m => { r with m := v &&& 0x3F }
  | .h => { r with h := v &&& 0x1F }
  | .dl => { r with dl := v }
  | .dh => { r with dh := v &&& 0xC1 }

/-- Read of `cram` through a RAM bank with the window enabled (rule R568). -/
def Cart.readRam (c : Cart) (a : Nat) : Except Fatal Byte := c.cram.readWithin c.cramLen (c.ramIndex a)

/-- Write of `cram` through a RAM bank with the window enabled (rule R568). -/
def Cart.writeRam (c : Cart) (a : Nat) (v : Byte) : Except Fatal Cart :=
  if c.ramIndex a < c.cramLen then .ok { c with cram := c.cram.write (c.ramIndex a) v }
  else .error .outOfRange

/-- Read of 0xA000–0xBFFF: 0xFF while disabled; else by kind (rules R568, R579, R585). -/
def Cart.readWindow (c : Cart) (a : Nat) : Except Fatal Byte :=
  if c.ramOn then
    match c.kind with
    | .null | .mbc1 => c.readRam a
    | .mbc2 =>
      if a - 0xA000 < 512 then .ok (0xF0 ||| c.cram.read (a - 0xA000)) else .error .outOfRange
    | .mbc3 =>
      match c.rtcSel with
      | .ramBank _ => c.readRam a
      | .reg q => .ok (c.latched.get q)
  else .ok 0xFF

/-- Write of 0xA000–0xBFFF: ignored while disabled; else by kind (rules R568, R579, R585). -/
def Cart.writeWindow (c : Cart) (a : Nat) (v : Byte) : Except Fatal Cart :=
  if c.ramOn then
    match c.kind with
    | .null | .mbc1 => c.writeRam a v
    | .mbc2 =>
      if a - 0xA000 < 512 then .ok { c with cram := c.cram.write (a - 0xA000) (v &&& 0x0F) }
      else .error .outOfRange
    | .mbc3 =>
      match c.rtcSel with
      | .ramBank _ => c.writeRam a v
      | .reg q => .ok { c with rtc := c.rtc.set q v }
  else .ok c

/-- A read of an address the bank controller owns. -/
def Cart.readAt (c : Cart) (a : Nat) : Except Fatal Byte :=
  if a < 0x8000 then c.rom.readWithin c.romLen (c.romIndex a)
  else if 0xA000 ≤ a ∧ a < 0xC000 then c.readWindow a
  else .error .outOfRange

/-! ## Control registers (rules R570 to R583) -/

/-- The value of a RAM-enable write (rules R571, R578, R580). -/
def enablesRam (v : Byte) : Bool := decide (v &&& 0x0F = 0x0A)

/-- A bank-select field in which 0 is coerced to 1 (rules R572, R578, R581). -/
def bankField (v : Byte) (n : Nat) : Nat := if fieldOf v 0 n = 0 then 1 else fieldOf v 0 n

/-- MBC1 effective banks (rule R575). -/
def Cart.mbc1Banks (c : Cart) : Cart :=
  if c.mode then { c with romBank := c.romBank % 32, ramBank := c.bank2 }
  else { c with romBank := c.bank2 * 32 + c.romBank % 32, ramBank := 0 }

/-- MBC1 control writes (rules R571 to R574). -/
def Cart.mbc1Control (c : Cart) (a : Nat) (v : Byte) : Cart :=
  if a < 0x2000 then { c with ramEnable := enablesRam v }
  else if a < 0x4000 then
    Cart.mbc1Banks { c with romBank := c.romBank / 32 % 4 * 32 + bankField v 5 }
  else if a < 0x6000 then Cart.mbc1Banks { c with bank2 := fieldOf v 0 2 }
  else Cart.mbc1Banks { c with mode := bitOf v 0 }

/-- MBC2 control writes (rule R578): address bit 8 selects; 0x4000–0x7FFF changes nothing. -/
def Cart.mbc2Control (c : Cart) (a : Nat) (v : Byte) : Cart :=
  if a < 0x4000 then
    if a / 256 % 2 = 0 then { c with ramEnable := enablesRam v } else { c with romBank := bankField v 4 }
  else c

/-- MBC3 bank or clock select (rule R582); other values change nothing. -/
def Cart.mbc3Select (c : Cart) (v : Byte) : Cart :=
  match v.toNat with
  | 0x00 => { c with ramBank := 0, rtcSel := .ramBank 0 }
  | 0x01 => { c with ramBank := 1, rtcSel := .ramBank 1 }
  | 0x02 => { c with ramBank := 2, rtcSel := .ramBank 2 }
  | 0x03 => { c with ramBank := 3, rtcSel := .ramBank 3 }
  | 0x08 => { c with rtcSel := .reg .s }
  | 0x09 => { c with rtcSel := .reg .m }
  | 0x0A => { c with rtcSel := .reg .h }
  | 0x0B => { c with rtcSel := .reg .dl }
  | 0x0C => { c with rtcSel := .reg .dh }
  | _ => c

/-- MBC3 latch (rule R583): 0x00 then 0x01 copies the live clock. -/
def Cart.mbc3Latch (c : Cart) (v : Byte) : Cart :=
  { c with
    latched := if c.latchPrev = 0x00 ∧ v = 0x01 then c.rtc else c.latched
    latchPrev := v }

/-- MBC3 control writes (rules R580 to R583). -/
def Cart.mbc3Control (c : Cart) (a : Nat) (v : Byte) : Cart :=
  if a < 0x2000 then { c with ramEnable := enablesRam v }
  else if a < 0x4000 then { c with romBank := bankField v 7 }
  else if a < 0x6000 then c.mbc3Select v
  else c.mbc3Latch v

/-- A write below 0x8000: "writes never touch ROM content; they reconfigure bank-selection state" (rule
R560); NullMBC ignores it (rule R570). -/
def Cart.control (c : Cart) (a : Nat) (v : Byte) : Cart :=
  match c.kind with
  | .null => c
  | .mbc1 => c.mbc1Control a v
  | .mbc2 => c.mbc2Control a v
  | .mbc3 => c.mbc3Control a v

/-- A write of an address the bank controller owns. -/
def Cart.writeAt (c : Cart) (a : Nat) (v : Byte) : Except Fatal Cart :=
  if a < 0x8000 then .ok (c.control a v)
  else if 0xA000 ≤ a ∧ a < 0xC000 then c.writeWindow a v
  else .error .outOfRange

/-! ## Real-time clock (rules R592, R593) -/

/-- The day counter plus one (rule R593): DL, DH bit 0, and the carry bit 7 on overflow. -/
def RtcRegs.tickDay (r : RtcRegs) : RtcRegs :=
  let d := fieldOf r.dh 0 1 * 256 + r.dl.toNat + 1
  if d = 512 then { r with dl := 0, dh := (r.dh ||| 0x80) &&& 0xFE }
  else { r with dl := BitVec.ofNat 8 d, dh := mergeBits 0x01 r.dh (BitVec.ofNat 8 (d / 256)) }

/-- The hour part of rule R593. -/
def RtcRegs.tickHour (r : RtcRegs) : RtcRegs :=
  let h := (r.h + 1) &&& 0x1F
  if h = 24 then RtcRegs.tickDay { r with h := 0 } else { r with h := h }

/-- The minute part of rule R593. -/
def RtcRegs.tickMinute (r : RtcRegs) : RtcRegs :=
  let m := (r.m + 1) &&& 0x3F
  if m = 60 then RtcRegs.tickHour { r with m := 0 } else { r with m := m }

/-- `tick_second()` of rule R593. -/
def RtcRegs.tickSecond (r : RtcRegs) : RtcRegs :=
  let s := (r.s + 1) &&& 0x3F
  if s = 60 then RtcRegs.tickMinute { r with s := 0 } else { r with s := s }

/-- `rtc.advance(cyc)` of rule R592. -/
def Cart.rtcAdvance (c : Cart) (clockHz cyc : Nat) : Cart :=
  match c.kind with
  | .mbc3 =>
    if bitOf c.rtc.dh 6 then c
    else
      { c with
        rtc := RtcRegs.tickSecond^[crossings (c.rtcAcc + cyc) clockHz] c.rtc
        rtcAcc := leftover (c.rtcAcc + cyc) clockHz }
  | _ => c

/-- `rtc.advance(cyc)` on the machine. -/
def State.rtcAdvance (s : State) (cyc : Nat) : State :=
  { s with cart := s.cart.rtcAdvance s.params.clockHz cyc }

end Sys2Proof.Machine
end

