-- ==== Sys2Proof/Machine/Timer.lean ====
section
/-! DEFINITION. The timer unit (61_timer_joypad.md, rules R400 to R408) and the request primitive of the
interrupt controller (rule R362). -/

namespace Sys2Proof.Machine

/-- `request(i)`: set bit `i` of the interrupt flags (rule R362). -/
def requestIrq (flags : Byte) (i : Nat) : Byte := flags ||| ((1 : Byte) <<< i)

/-- `threshold` of rule R404. -/
def timaThreshold (tac : Byte) : Nat :=
  match fieldOf tac 0 2 with
  | 0 => 1024
  | 1 => 16
  | 2 => 64
  | _ => 256

/-- The registers of the timer unit (rule R45). -/
inductive TimerReg where
  | div | tima | tma | tac
  deriving DecidableEq, Repr

/-- Rule R45: 0xFF04 to 0xFF07. -/
def timerRegAt (a : Nat) : Option TimerReg :=
  [(0xFF04, TimerReg.div), (0xFF05, .tima), (0xFF06, .tma), (0xFF07, .tac)].lookup a

/-- Rule R401, reads. -/
def Timer.readReg (t : Timer) : TimerReg → Byte
  | .div => t.div
  | .tima => t.tima
  | .tma => t.tma
  | .tac => t.tac

/-- Rule R401, writes: any write clears DIV and `div_acc`; a change of the rate bits of TAC clears
`tima_acc`. -/
def Timer.writeReg (t : Timer) (r : TimerReg) (v : Byte) : Timer :=
  match r with
  | .div => { t with div := 0, divAcc := 0 }
  | .tima => { t with tima := v }
  | .tma => { t with tma := v }
  | .tac =>
    { t with tac := v, timaAcc := if fieldOf v 0 2 = fieldOf t.tac 0 2 then t.timaAcc else 0 }

/-- The timer with the interrupt flags it may set. -/
structure TimerIo where
  timer : Timer
  irq : Byte

/-- `tick_counter()` of rule R404: reload and request in the tick that overflows. -/
def TimerIo.tick (x : TimerIo) : TimerIo :=
  if x.timer.tima = 255 then
    { timer := { x.timer with tima := x.timer.tma }, irq := requestIrq x.irq 2 }
  else { x with timer := { x.timer with tima := x.timer.tima + 1 } }

/-- The divider part of rule R402 (rule R403). -/
def Timer.advanceDiv (t : Timer) (cyc : Nat) : Timer :=
  { t with
    div := t.div + BitVec.ofNat 8 (crossings (t.divAcc + cyc) 256)
    divAcc := leftover (t.divAcc + cyc) 256 }

/-- The counter part of rule R402 (rule R404): nothing accumulates while TAC bit 2 is 0. -/
def TimerIo.advanceTima (x : TimerIo) (cyc : Nat) : TimerIo :=
  if bitOf x.timer.tac 2 then
    let total := x.timer.timaAcc + cyc
    let t := timaThreshold x.timer.tac
    TimerIo.tick^[crossings total t]
      { x with timer := { x.timer with timaAcc := leftover total t } }
  else x

/-- `timer.advance(cyc)` of rule R402. -/
def TimerIo.advance (x : TimerIo) (cyc : Nat) : TimerIo :=
  TimerIo.advanceTima { x with timer := x.timer.advanceDiv cyc } cyc

/-- `timer.advance(cyc)` on the machine. -/
def State.timerAdvance (s : State) (cyc : Nat) : State :=
  let x := TimerIo.advance ⟨s.timer, s.ifReg⟩ cyc
  { s with timer := x.timer, ifReg := x.irq }

end Sys2Proof.Machine
end

