-- ==== Sys2Proof/Machine/Joypad.lean ====
section
/-! DEFINITION. The joypad unit (61_timer_joypad.md, rules R420 to R425). -/

namespace Sys2Proof.Machine

/-- `pressed[b]`. -/
def Pressed.get (p : Pressed) : Button → Bool
  | .right => p.right
  | .left => p.left
  | .up => p.up
  | .down => p.down
  | .a => p.a
  | .b => p.b
  | .select => p.select
  | .start => p.start

/-- `pressed[b] <- v`. -/
def Pressed.set (p : Pressed) (btn : Button) (v : Bool) : Pressed :=
  match btn with
  | .right => { p with right := v }
  | .left => { p with left := v }
  | .up => { p with up := v }
  | .down => { p with down := v }
  | .a => { p with a := v }
  | .b => { p with b := v }
  | .select => { p with select := v }
  | .start => { p with start := v }

/-- A number from four bits, bit 0 first. -/
def nibbleOf (b0 b1 b2 b3 : Bool) : Byte :=
  BitVec.ofNat 8 (b0.toNat + 2 * b1.toNat + 4 * b2.toNat + 8 * b3.toNat)

/-- Read of P1 (rules R46, R423): bits 7 to 4 as stored; a 0 in bits 3 to 0 is a pressed button of a
selected group, the direction group selected by bit 4 = 0 and the action group by bit 5 = 0. -/
def Joypad.readP1 (j : Joypad) : Byte :=
  let dir := !bitOf j.p1 4
  let act := !bitOf j.p1 5
  let line := fun (d x : Button) => !(dir && j.pressed.get d || act && j.pressed.get x)
  (j.p1 &&& 0xF0) ||| nibbleOf (line .right .a) (line .left .b) (line .up .select) (line .down .start)

/-- Write of P1 (rule R423): bits 3 to 0 of the byte are dropped. -/
def Joypad.writeP1 (j : Joypad) (v : Byte) : Joypad := { j with p1 := mergeBits 0xF0 j.p1 v }

/-- Whether the event requests the input interrupt (rule R422). -/
def requestsInput (onRelease old new : Bool) : Bool :=
  old != new && (new || onRelease)

/-- Applying one event (rules R421, R422, R424): the button changes, the stop state ends, and a press of
a released button requests the input interrupt. -/
def State.applyButton (s : State) (ev : ButtonEvent) : State :=
  let old := s.joypad.pressed.get ev.button
  { s with
    joypad := { s.joypad with pressed := s.joypad.pressed.set ev.button ev.pressed }
    stop := false
    ifReg :=
      if requestsInput s.params.joypadIrqOnRelease old ev.pressed then requestIrq s.ifReg 4 else s.ifReg }

/-- Sub-step 2 of rule R350 (rule R420): at most one event is pulled. -/
def State.pollJoypad (s : State) : State :=
  match s.host.events with
  | [] => s
  | ev :: rest => ({ s with host := { s.host with events := rest } } : State).applyButton ev

end Sys2Proof.Machine
end

