-- ==== Sys2Proof/Machine/Ppu.lean ====
section
/-! DEFINITION. The display unit (62_ppu.md, rules R430 to R477). A `vram[a]` of the rules is the array
element `a - 0x8000`; the unit reads its own arrays directly, so rendering never raises. -/

namespace Sys2Proof.Machine

/-! ## Registers (rules R51 to R54, R432) -/

/-- The registers at 0xFF40 to 0xFF4B (rule R45). -/
inductive PpuReg where
  | lcdc | stat | scy | scx | ly | lyc | dma | bgp | obp0 | obp1 | wy | wx
  deriving DecidableEq, Repr

/-- Rule R45. -/
def ppuRegAt (a : Nat) : Option PpuReg :=
  [(0xFF40, PpuReg.lcdc), (0xFF41, .stat), (0xFF42, .scy), (0xFF43, .scx), (0xFF44, .ly),
   (0xFF45, .lyc), (0xFF46, .dma), (0xFF47, .bgp), (0xFF48, .obp0), (0xFF49, .obp1),
   (0xFF4A, .wy), (0xFF4B, .wx)].lookup a

/-- The mode field of STAT (rule R52). -/
def PpuMode.code : PpuMode → Byte
  | .hblank => 0
  | .vblank => 1
  | .oam => 2
  | .transfer => 3

/-- Register reads (rule R432). -/
def Ppu.readReg (p : Ppu) : PpuReg → Byte
  | .lcdc => p.lcdc
  | .stat => (p.stat &&& 0xF8) ||| (if p.coin then 4 else 0) ||| p.mode.code
  | .scy => p.scy
  | .scx => p.scx
  | .ly => BitVec.ofNat 8 p.ly
  | .lyc => p.lyc
  | .dma => p.dma
  | .bgp => p.bgp
  | .obp0 => p.obp0
  | .obp1 => p.obp1
  | .wy => p.wy
  | .wx => p.wx

/-- A read of an address the display unit owns (rules R430 to R432). -/
def Ppu.readAt (p : Ppu) (a : Nat) : Except Fatal Byte :=
  if 0x8000 ≤ a ∧ a < 0xA000 then .ok (p.vram.read (a - 0x8000))
  else if 0xFE00 ≤ a ∧ a < 0xFEA0 then .ok (p.oam.read (a - 0xFE00))
  else
    match ppuRegAt a with
    | some r => .ok (p.readReg r)
    | none => .error .outOfRange

/-- LCDC bit 7. -/
def Ppu.on (p : Ppu) : Bool := bitOf p.lcdc 7

/-- The display unit with the interrupt flags it may set and the frames it has handed to the sink. -/
structure PpuIo where
  ppu : Ppu
  irq : Byte
  frames : List Frame

/-! ## Status interrupt (rules R450, R455) -/

/-- The OR of the four enabled conditions of rule R455. -/
def Ppu.statCondition (p : Ppu) : Bool :=
  (p.coin && bitOf p.stat 6) || (decide (p.mode = .hblank) && bitOf p.stat 3) ||
    (decide (p.mode = .vblank) && bitOf p.stat 4) || (decide (p.mode = .oam) && bitOf p.stat 5)

/-- `update_stat()` of rule R455: a request on the change of `stat_line` from false to true only. -/
def PpuIo.updateStat (x : PpuIo) : PpuIo :=
  let new := x.ppu.statCondition
  { x with
    irq := if new && !x.ppu.statLine then requestIrq x.irq 1 else x.irq
    ppu := { x.ppu with statLine := new } }

/-- `coin <- (ly = LYC)` (rule R450). -/
def Ppu.checkCoin (p : Ppu) : Ppu := { p with coin := decide (p.ly = p.lyc.toNat) }

/-! ## Sprites (rules R460 to R462) -/

/-- Sprite height of LCDC bit 2. -/
def Ppu.spriteHeight (p : Ppu) : Nat := if bitOf p.lcdc 2 then 16 else 8

/-- Byte `k` of sprite entry `i` (rule R55). -/
def Ppu.sprite (p : Ppu) (i k : Nat) : Byte := p.oam.read (4 * i + k)

/-- `hits` of rule R460. -/
def Ppu.spriteHits (p : Ppu) : List Nat :=
  (List.range 40).filter fun i =>
    decide ((p.sprite i 0).toNat ≤ p.ly + 16 ∧ p.ly + 16 < (p.sprite i 0).toNat + p.spriteHeight)

/-- Insertion of sprite `i` before the first entry with a greater X. -/
def Ppu.insertByX (p : Ppu) (i : Nat) : List Nat → List Nat
  | [] => [i]
  | j :: rest =>
    if (p.sprite i 1).toNat ≤ (p.sprite j 1).toNat then i :: j :: rest else j :: p.insertByX i rest

/-- `sorted by (X, i)` of a list of rising indices: ties keep the list's order. -/
def Ppu.sortByX (p : Ppu) (l : List Nat) : List Nat := l.foldr p.insertByX []

/-- The queue of rule R460 for either value of SPRITE_PICK. -/
def Ppu.selection (p : Ppu) (pick : SpritePick) : List Nat :=
  if bitOf p.lcdc 1 then
    match pick with
    | .table => p.sortByX (p.spriteHits.take 10)
    | .x => (p.sortByX p.spriteHits).take 10
  else []

/-- Colour for code `k` of a palette register: `P[2k+1 : 2k]` (rules R54, R466). -/
def paletteShade (pal : Byte) (k : Nat) : Shade := BitVec.ofNat 2 (fieldOf pal (2 * k) 2)

/-- The 2-bit colour code of one pixel of a tile row (rules R462, R463). -/
def colourCode (hi lo : Byte) (i : Nat) : Nat := 2 * (bitOf hi i).toNat + (bitOf lo i).toNat

/-- The layer value at row `y`, column `x`; T outside the grid. -/
def Layer.get (l : Layer) (y x : Nat) : Dot := ((l[y]?.bind fun row => row[x]?).getD none)

/-- The layer with row `y`, column `x` replaced. -/
def Layer.set (l : Layer) (y x : Nat) (d : Dot) : Layer :=
  match l[y]? with
  | some row => l.setIfInBounds y (row.setIfInBounds x d)
  | none => l

/-- The layer with row `y` all T. -/
def Layer.clearRow (l : Layer) (y : Nat) : Layer := l.setIfInBounds y (Vector.replicate 160 none)

/-- One pixel of a sprite row on a layer: pixel `px` of the sprite at X byte `sx` lies at `sx - 8 + px`, and
is written only on screen, for a code other than 0, over a T (rule R462). -/
def drawSpritePixel (ly sx : Nat) (hi lo pal : Byte) (flipX : Bool) (l : Layer) (px : Nat) : Layer :=
  let k := colourCode hi lo (if flipX then px else 7 - px)
  if 8 ≤ sx + px ∧ sx + px < 168 ∧ k ≠ 0 ∧ l.get ly (sx + px - 8) = none then
    l.set ly (sx + px - 8) (some (paletteShade pal k))
  else l

/-- `draw_sprite(i)` of rule R462. The row `r` lies in 0..h-1 by selection; should LCDC or OAM have changed
since, a row outside is skipped (log entry 10). -/
def Ppu.drawSprite (p : Ppu) (i : Nat) : Ppu :=
  let h := p.spriteHeight
  let y := (p.sprite i 0).toNat
  let f := p.sprite i 3
  if y ≤ p.ly + 16 ∧ p.ly + 16 < y + h then
    let r0 := p.ly + 16 - y
    let r := if bitOf f 6 then h - 1 - r0 else r0
    let t0 := (p.sprite i 2).toNat
    let t := if h = 16 then t0 / 2 * 2 + r / 8 else t0
    let lo := p.vram.read (16 * t + 2 * (r % 8))
    let hi := p.vram.read (16 * t + 2 * (r % 8) + 1)
    let pal := if bitOf f 4 then p.obp1 else p.obp0
    let draw := (List.range 8).foldl (drawSpritePixel p.ly (p.sprite i 1).toNat hi lo pal (bitOf f 5))
    if bitOf f 7 then { p with sprBelow := draw p.sprBelow } else { p with sprAbove := draw p.sprAbove }
  else p

/-- `attempt_sprite()` of rule R461. -/
def Ppu.attemptSprite (p : Ppu) : Ppu :=
  match p.queue[p.nextSprite]? with
  | some i => { p.drawSprite i with nextSprite := p.nextSprite + 1 }
  | none => p

/-! ## Background and window (rules R463 to R465) -/

/-- `tile_pixel(base_sel, id, row, bit)` of rule R463, `sel` being LCDC bit 4. -/
def Ppu.tilePixel (p : Ppu) (sel : Bool) (id : Byte) (row i : Nat) : Nat :=
  let n := id.toNat
  let base := if sel then 16 * n else if 128 ≤ n then 0x1000 + 16 * n - 4096 else 0x1000 + 16 * n
  colourCode (p.vram.read (base + 2 * row + 1)) (p.vram.read (base + 2 * row)) i

/-- The colour at pixel (x, y) of a 32 × 32 tile map, `map1` choosing 0x9C00 over 0x9800 (rules R464,
R465, R466). -/
def Ppu.mapShade (p : Ppu) (map1 : Bool) (x y : Nat) : Shade :=
  let id := p.vram.read ((if map1 then 0x1C00 else 0x1800) + 32 * (y / 8) + x / 8)
  paletteShade p.bgp (p.tilePixel (bitOf p.lcdc 4) id (y % 8) (7 - x % 8))

/-- The background value of column `c` (rule R464). -/
def Ppu.bgShade (p : Ppu) (c : Nat) : Shade :=
  if bitOf p.lcdc 0 then
    p.mapShade (bitOf p.lcdc 3) ((c + p.scx.toNat) % 256) ((p.ly + p.scy.toNat) % 256)
  else 0

/-- The window value of column `c` (rule R465); `c ≥ WX - 7` as integers. -/
def Ppu.winDot (p : Ppu) (c : Nat) : Dot :=
  if bitOf p.lcdc 5 = true ∧ p.wy.toNat ≤ p.ly ∧ p.wx.toNat ≤ c + 7 then
    some (p.mapShade (bitOf p.lcdc 6) (c + 7 - p.wx.toNat) (p.ly - p.wy.toNat))
  else none

/-- `render_bg(c)`. -/
def Ppu.renderBg (p : Ppu) (c : Nat) : Ppu := { p with bg := p.bg.set p.ly c (some (p.bgShade c)) }

/-- `render_win(c)`. -/
def Ppu.renderWin (p : Ppu) (c : Nat) : Ppu := { p with win := p.win.set p.ly c (p.winDot c) }

/-! ## Composition (rules R468, R470) -/

/-- One pixel of rule R468. A background dot that is still T counts as shade 0, where the rule's `g` has no shade:
DESIGN CHOICE, unsafe there (log entry 23). Only a ResetState that starts inside a line's TRANSFER leaves one. -/
def mergeDots (above below win bg : Dot) : Shade :=
  let g := (win.orElse fun _ => bg).getD 0
  match above with
  | some v => v
  | none =>
    match below with
    | some v => if g = 0 then v else g
    | none => g

/-- `compose_line(ly)` of rule R468. -/
def Ppu.composeLine (p : Ppu) : Ppu :=
  { p with
    frame := p.frame.setIfInBounds p.ly (Vector.ofFn fun c : Fin 160 =>
      mergeDots (p.sprAbove.get p.ly c.val) (p.sprBelow.get p.ly c.val) (p.win.get p.ly c.val)
        (p.bg.get p.ly c.val)) }

/-- `present_frame()` of rule R470. -/
def PpuIo.presentFrame (x : PpuIo) : PpuIo := { x with frames := x.frames ++ [x.ppu.frame] }

/-! ## The scanline machine (rule R435) -/

/-- End of OAM search: the sprites of the line are selected and the line's sprite rows cleared. -/
def Ppu.beginTransfer (p : Ppu) (pick : SpritePick) : Ppu :=
  { p with
    queue := p.selection pick
    col := 0
    nextSprite := 0
    sprAbove := p.sprAbove.clearRow p.ly
    sprBelow := p.sprBelow.clearRow p.ly
    mode := .transfer }

/-- One column of pixel transfer, one cycle. -/
def Ppu.renderColumn (p : Ppu) : Ppu :=
  let q := if p.col % 16 = 0 then p.attemptSprite else p
  let q := (q.renderBg p.col).renderWin p.col
  { q with col := p.col + 1, acc := p.acc - 1 }

/-- The columns one call renders: `while ppu_acc >= 1 and col < 160`. -/
def Ppu.renderColumns (p : Ppu) : Ppu := Ppu.renderColumn^[min p.acc (160 - p.col)] p

/-- Entry of line `ly + 1` from H-blank: V-blank at line 144, with its interrupt and the frame (rules R456,
R470), else OAM search. -/
def PpuIo.endHblank (x : PpuIo) : PpuIo :=
  let p := { x.ppu with acc := x.ppu.acc - 204, ly := x.ppu.ly + 1 }
  let y :=
    if p.ly = 144 then
      PpuIo.presentFrame { x with ppu := { p with mode := .vblank }, irq := requestIrq x.irq 0 }
    else { x with ppu := { p with mode := .oam } }
  PpuIo.updateStat { y with ppu := y.ppu.checkCoin }

/-- Entry of line `ly + 1` from V-blank, wrapping to line 0 and OAM search after line 153. -/
def PpuIo.endVblankLine (x : PpuIo) : PpuIo :=
  let p := { x.ppu with acc := x.ppu.acc - 456, ly := x.ppu.ly + 1 }
  let p := if p.ly = 154 then { p with ly := 0, mode := .oam } else p
  PpuIo.updateStat { x with ppu := p.checkCoin }

/-- One pass of the `repeat` of rule R435, and whether it moved. -/
def PpuIo.pass (pick : SpritePick) (x : PpuIo) : PpuIo × Bool :=
  match x.ppu.mode with
  | .oam =>
    if 80 ≤ x.ppu.acc then
      (PpuIo.updateStat
        { x with ppu := Ppu.beginTransfer { x.ppu with acc := x.ppu.acc - 80 } pick }, true)
    else (x, false)
  | .transfer =>
    let p := x.ppu.renderColumns
    if p.col = 160 then
      (PpuIo.updateStat { x with ppu := { p.composeLine with mode := .hblank } }, true)
    else ({ x with ppu := p }, false)
  | .hblank => if 204 ≤ x.ppu.acc then (x.endHblank, true) else (x, false)
  | .vblank => if 456 ≤ x.ppu.acc then (x.endVblankLine, true) else (x, false)

/-- `repeat … until not moved`, at most `fuel` passes. -/
def PpuIo.passes (pick : SpritePick) : Nat → PpuIo → PpuIo
  | 0, x => x
  | fuel + 1, x => if (x.pass pick).2 then PpuIo.passes pick fuel (x.pass pick).1 else (x.pass pick).1

/-- `display.advance(cyc)` of rule R435. Two moves in a row consume at least 80 cycles but for one, so
`acc + 3` passes are enough. -/
def PpuIo.advance (pick : SpritePick) (x : PpuIo) (cyc : Nat) : PpuIo :=
  if x.ppu.on then
    let p := { x.ppu with acc := x.ppu.acc + cyc }
    PpuIo.passes pick (p.acc + 3) (PpuIo.updateStat { x with ppu := p.checkCoin })
  else x

/-- The display unit's view of the machine. -/
def State.ppuIo (s : State) : PpuIo := ⟨s.ppu, s.ifReg, s.out.frames⟩

/-- The machine with the display unit's view replaced. -/
def State.withPpuIo (s : State) (x : PpuIo) : State :=
  { s with ppu := x.ppu, ifReg := x.irq, out := { s.out with frames := x.frames } }

/-- `display.advance(cyc)` on the machine. -/
def State.displayAdvance (s : State) (cyc : Nat) : State :=
  s.withPpuIo (s.ppuIo.advance s.params.spritePick cyc)

/-! ## Writes (rules R433, R472, R473) -/

/-- Display off (rule R472). -/
def PpuIo.turnOff (x : PpuIo) : PpuIo :=
  PpuIo.presentFrame
    { x with
      ppu := { x.ppu with
        ly := 0, col := 0, acc := 0, mode := .hblank, coin := false, statLine := false
        queue := [], nextSprite := 0, frame := Frame.blank } }

/-- Display on (rule R473). -/
def Ppu.turnOn (p : Ppu) : Ppu := { p with ly := 0, col := 0, acc := 0, mode := .oam }

/-- Write of LCDC (rule R433). -/
def PpuIo.writeLcdc (x : PpuIo) (v : Byte) : PpuIo :=
  let y := { x with ppu := { x.ppu with lcdc := v } }
  match x.ppu.on, bitOf v 7 with
  | true, false => y.turnOff
  | false, true => { y with ppu := y.ppu.turnOn }
  | _, _ => y

/-- Register writes other than the copy that a write of DMA starts (rules R433, R476). -/
def PpuIo.writeReg (x : PpuIo) (r : PpuReg) (v : Byte) : PpuIo :=
  match r with
  | .lcdc => x.writeLcdc v
  | .stat => { x with ppu := { x.ppu with stat := mergeBits 0xF8 x.ppu.stat v } }
  | .scy => { x with ppu := { x.ppu with scy := v } }
  | .scx => { x with ppu := { x.ppu with scx := v } }
  | .ly => x
  | .lyc => { x with ppu := { x.ppu with lyc := v } }
  | .dma => { x with ppu := { x.ppu with dma := v } }
  | .bgp => { x with ppu := { x.ppu with bgp := v } }
  | .obp0 => { x with ppu := { x.ppu with obp0 := v } }
  | .obp1 => { x with ppu := { x.ppu with obp1 := v } }
  | .wy => { x with ppu := { x.ppu with wy := v } }
  | .wx => { x with ppu := { x.ppu with wx := v } }

end Sys2Proof.Machine
end

