-- ==== Sys2Proof/Machine/Bus.lean ====
section
/-! DEFINITION. The bus (20_memory.md, rules R90 to R107): every byte access goes to the one unit that owns the
address, and fails where none does. -/

namespace Sys2Proof.Machine

/-- An access with its effect so far: it has completed with a value, or it has raised a fatal error in the
state that the accesses completed before the failing one left (rule R356). -/
inductive Acc (α : Type) where
  | done (v : α) (s : State)
  | fatal (cause : Fatal) (s : State)

/-- An access that changes the state and returns nothing. -/
abbrev Access := Acc Unit

/-! ## Ownership (rules R90, R91) -/

/-- The claim that holds for an address: the last mapping that covers it wins. -/
def claimAt (m : List BusClaim) (a : Nat) : Option BusClaim := m.find? fun c => decide (c.lo ≤ a ∧ a ≤ c.hi)

/-- The unit a claim routes an address to, and the unit's own address of the access. -/
def BusClaim.target (c : BusClaim) (a : Nat) : BusUnit × Nat := (c.unit, c.base + (a - c.lo))

/-- Where an access of the machine goes. Under the default map the unit's own address is the bus address (law
`target_direct`). -/
def State.target (s : State) (a : Word) : Option (BusUnit × Nat) :=
  (claimAt s.busMap a.toNat).map fun c => c.target a.toNat

/-- `owner(addr)` of the machine. -/
def State.owner (s : State) (a : Word) : Option BusUnit := (claimAt s.busMap a.toNat).map (·.unit)

/-- `map(component, fromAddr, toAddr)` of rule R91, with its range validation. -/
def State.mapUnit (s : State) (u : BusUnit) (lo hi : Nat) : Access :=
  if lo ≤ hi ∧ hi ≤ 65535 then .done () { s with busMap := .direct lo hi u :: s.busMap }
  else .fatal .outOfRange s

/-! ## Reads (rule R92) -/

/-- The read of the unit that owns the address, at the unit's own address `a`. A unit answers `OutOfRange` where
it holds no byte (rules R94, R103); that an alternative table which routes an address outside a unit's default
range meets the same error, in the boot overlay too, and how `openBus` answers, is the model's choice (log
entry 14). Without a boot image the boot units are not in the machine: an access that a host's table routes to
them raises what rule R602 gives 0xFF50 there, `AccessViolation` (DEDUCED, log entry 14). -/
def State.unitRead (s : State) (u : BusUnit) (a : Nat) : Except Fatal Byte :=
  match u with
  | .bootRom =>
    match s.boot with
    | some img => if a < 0x100 then img.bytes.readWithin img.len a else .error .outOfRange
    | none => .error .accessViolation
  | .bootOff => if s.boot.isNone = true ∨ a = 0xFF50 then .error .accessViolation else .error .outOfRange
  | .cart => s.cart.readAt a
  | .display => s.ppu.readAt a
  | .workRam => if 0xC000 ≤ a ∧ a < 0xE000 then .ok (s.wram.read (a - 0xC000)) else .error .outOfRange
  | .highRam => if 0xFF80 ≤ a ∧ a < 0xFFFF then .ok (s.hram.read (a - 0xFF80)) else .error .outOfRange
  | .joypad => if a = 0xFF00 then .ok s.joypad.readP1 else .error .outOfRange
  | .timer =>
    match timerRegAt a with
    | some r => .ok (s.timer.readReg r)
    | none => .error .outOfRange
  | .cpuCore =>
    if a = 0xFF0F then .ok s.ifReg else if a = 0xFFFF then .ok s.ieReg else .error .outOfRange
  | .sound => s.apu.readAt a
  | .openBus => .ok 0xFF

/-- `read(addr)` of rule R92, `MemRead(a, 1)` of rule R14. No read has a side effect (rule R114). -/
def State.readByte (s : State) (a : Word) : Except Fatal Byte :=
  match s.target a with
  | none => .error .accessViolation
  | some (u, k) => s.unitRead u k

/-! ## Writes (rule R93) -/

/-- The OAM copy of rule R476, `n` bytes from index `i` up, each by a bus read of page `v`. -/
def State.oamCopy (v : Byte) : Nat → Nat → State → Access
  | 0, _, s => .done () s
  | n + 1, i, s =>
    match s.readByte (BitVec.ofNat 16 (256 * v.toNat + i)) with
    | .error c => .fatal c s
    | .ok b => State.oamCopy v n (i + 1) { s with ppu := { s.ppu with oam := s.ppu.oam.write i b } }

/-- A write of a display register; a write of DMA also copies 160 bytes (rules R433, R476). -/
def State.writePpuReg (s : State) (r : PpuReg) (v : Byte) : Access :=
  let t := s.withPpuIo (s.ppuIo.writeReg r v)
  match r with
  | .dma => State.oamCopy v 160 0 t
  | _ => .done () t

/-- A write of an address the display unit owns (rules R431, R433). -/
def State.writePpu (s : State) (a : Nat) (v : Byte) : Access :=
  if 0x8000 ≤ a ∧ a < 0xA000 then
    .done () { s with ppu := { s.ppu with vram := s.ppu.vram.write (a - 0x8000) v } }
  else if 0xFE00 ≤ a ∧ a < 0xFEA0 then
    .done () { s with ppu := { s.ppu with oam := s.ppu.oam.write (a - 0xFE00) v } }
  else
    match ppuRegAt a with
    | some r => s.writePpuReg r v
    | none => .fatal .outOfRange s

/-- The one-shot BOOTOFF write (rule R601), "when `BootImage` is present". -/
def State.writeBootOff (s : State) : Access :=
  if s.bootMapped = true then ({ s with bootMapped := false } : State).mapUnit .cart 0x0000 0x00FF else .done () s

/-- A write to a unit of the boot overlay; without a boot image neither is in the machine (rule R602, log entry
14). -/
def State.writeBootUnit (s : State) (inRange : Bool) (w : Access) : Access :=
  match s.boot.isSome, inRange with
  | false, _ => .fatal .accessViolation s
  | true, true => w
  | true, false => .fatal .outOfRange s

/-- The write of the unit that owns the address, at the unit's own address `a`; outside a unit's default range
and on `openBus` as log entry 14 says. -/
def State.unitWrite (s : State) (u : BusUnit) (a : Nat) (v : Byte) : Access :=
  match u with
  | .bootRom => s.writeBootUnit (decide (a < 0x100)) (.fatal .accessViolation s)
  | .bootOff => s.writeBootUnit (decide (a = 0xFF50)) s.writeBootOff
  | .cart =>
    match s.cart.writeAt a v with
    | .ok c => .done () { s with cart := c }
    | .error e => .fatal e s
  | .display => s.writePpu a v
  | .workRam =>
    if 0xC000 ≤ a ∧ a < 0xE000 then .done () { s with wram := s.wram.write (a - 0xC000) v }
    else .fatal .outOfRange s
  | .highRam =>
    if 0xFF80 ≤ a ∧ a < 0xFFFF then .done () { s with hram := s.hram.write (a - 0xFF80) v }
    else .fatal .outOfRange s
  | .joypad =>
    if a = 0xFF00 then .done () { s with joypad := s.joypad.writeP1 v } else .fatal .outOfRange s
  | .timer =>
    match timerRegAt a with
    | some r => .done () { s with timer := s.timer.writeReg r v }
    | none => .fatal .outOfRange s
  | .cpuCore =>
    if a = 0xFF0F then .done () { s with ifReg := v }
    else if a = 0xFFFF then .done () { s with ieReg := v }
    else .fatal .outOfRange s
  | .sound =>
    match s.apu.writeAt a v with
    | .ok u => .done () { s with apu := u }
    | .error e => .fatal e s
  | .openBus => .done () s

/-- `write(addr, byte)` of rule R93, `MemWrite(a, 1, v)` of rule R14. -/
def State.writeByte (s : State) (a : Word) (v : Byte) : Access :=
  match s.target a with
  | none => .fatal .accessViolation s
  | some (u, k) => s.unitWrite u k v

end Sys2Proof.Machine
end

