-- ==== Sys2Proof/Machine/Ops.lean ====
section
/-! DEFINITION. The named operations the instructions share: registers and pairs (rule R13), memory and stack
primitives (rules R14, R15), the fatal error (rule R356), the fetch (rule R350), the clocks, and the taking of
an interrupt with the return from one (rules R363 to R366, R320). -/

namespace Sys2Proof.Machine

/-- What an instruction or a step answers. -/
abbrev Result := Host.Outcome State Fault Refusal

/-! ## Registers (rules R13, R20) -/

/-- `x[i]`. -/
def State.reg (s : State) : Reg8 → Byte
  | .b => s.regs.b
  | .c => s.regs.c
  | .d => s.regs.d
  | .e => s.regs.e
  | .h => s.regs.h
  | .l => s.regs.l
  | .a => s.regs.a

/-- `x[i] <- v`. -/
def State.setReg (s : State) (r : Reg8) (v : Byte) : State :=
  match r with
  | .b => { s with regs := { s.regs with b := v } }
  | .c => { s with regs := { s.regs with c := v } }
  | .d => { s with regs := { s.regs with d := v } }
  | .e => { s with regs := { s.regs with e := v } }
  | .h => { s with regs := { s.regs with h := v } }
  | .l => { s with regs := { s.regs with l := v } }
  | .a => { s with regs := { s.regs with a := v } }

/-- `F <- v`; the bottom four bits are always zero (rule R22). -/
def State.setF (s : State) (v : Byte) : State := { s with regs := { s.regs with f := v &&& 0xF0 } }

/-- `BC` (rule R20). -/
def State.bc (s : State) : Word := joinBytes s.regs.b s.regs.c

/-- `DE`. -/
def State.de (s : State) : Word := joinBytes s.regs.d s.regs.e

/-- `HL`. -/
def State.hl (s : State) : Word := joinBytes s.regs.h s.regs.l

/-- `AF`. The bottom four bits of F are always zero (rule R22), and so PUSH AF writes them (rule R204). -/
def State.af (s : State) : Word := joinBytes s.regs.a (s.regs.f &&& 0xF0)

/-- `BC <- v`. -/
def State.setBc (s : State) (v : Word) : State := (s.setReg .b (hiByte v)).setReg .c (loByte v)

/-- `DE <- v`. -/
def State.setDe (s : State) (v : Word) : State := (s.setReg .d (hiByte v)).setReg .e (loByte v)

/-- `HL <- v`. -/
def State.setHl (s : State) (v : Word) : State := (s.setReg .h (hiByte v)).setReg .l (loByte v)

/-- `AF <- v`, with the low four bits of F discarded (rule R206). -/
def State.setAf (s : State) (v : Word) : State := (s.setReg .a (hiByte v)).setF (loByte v)

/-- `SP <- v`. -/
def State.setSp (s : State) (v : Word) : State := { s with regs := { s.regs with sp := v } }

/-- `pc <- v`. -/
def State.setPc (s : State) (v : Word) : State := { s with regs := { s.regs with pc := v } }

/-- `cyc <- n`: the cycle cost the instruction reports. -/
def State.setCyc (s : State) (n : Nat) : State := { s with cyc := n }

/-- `rr[i]`. -/
def State.rr (s : State) : PairRR → Word
  | .bc => s.bc
  | .de => s.de
  | .hl => s.hl
  | .sp => s.regs.sp

/-- `rr[i] <- v`. -/
def State.setRr (s : State) (p : PairRR) (v : Word) : State :=
  match p with
  | .bc => s.setBc v
  | .de => s.setDe v
  | .hl => s.setHl v
  | .sp => s.setSp v

/-- `qq[i]`. -/
def State.qq (s : State) : PairQQ → Word
  | .bc => s.bc
  | .de => s.de
  | .hl => s.hl
  | .af => s.af

/-- `qq[i] <- v`. -/
def State.setQq (s : State) (p : PairQQ) (v : Word) : State :=
  match p with
  | .bc => s.setBc v
  | .de => s.setDe v
  | .hl => s.setHl v
  | .af => s.setAf v

/-! ## End of an instruction (rules R17, R310, R356) -/

/-- The instruction ends, not having assigned pc: `pc <- (pc + LEN) mod 65536`, with its cycle cost. -/
def State.retire (s : State) (len cycles : Nat) : Result :=
  .next ((s.setPc (s.regs.pc + BitVec.ofNat 16 len)).setCyc cycles)

/-- The instruction ends with `pc <- t`. -/
def State.jump (s : State) (t : Word) (cycles : Nat) : Result := .next ((s.setPc t).setCyc cycles)

/-- `raise Fatal(cause)` by an access (rule R356): `run <- Crashed(cause)`. What the registers, the flags and
the memory then hold is `any value`; what has gone out to the host, what it has still to send, and the
parameters are not machine contents and stay. -/
def State.crash (s : State) (cause : Fatal) : State :=
  { Config.crashedContents s with run := .crashed cause, params := s.params, host := s.host, out := s.out }

/-! ## Memory and stack primitives (rules R14, R15) -/

/-- A data read, and what follows it. -/
def State.withLoad (s : State) (a : Word) (k : Byte → Result) : Result :=
  match s.readByte a with
  | .ok v => k v
  | .error c => .next (s.crash c)

/-- A data write, and what follows it. -/
def State.withStore (s : State) (a : Word) (v : Byte) (k : State → Result) : Result :=
  match s.writeByte a v with
  | .done _ t => k t
  | .fatal c t => .next (t.crash c)

/-- `MemWrite(a, 2, v)`: the low byte at `a`, then the high byte at `a + 1` (rules R14, R110, R111). -/
def State.writeWord (s : State) (a v : Word) : Access :=
  match s.writeByte a (loByte v) with
  | .fatal c t => .fatal c t
  | .done _ t => t.writeByte (a + 1) (hiByte v)

/-- A 16-bit data write, and what follows it. -/
def State.withStoreWord (s : State) (a v : Word) (k : State → Result) : Result :=
  match s.writeWord a v with
  | .done _ t => k t
  | .fatal c t => .next (t.crash c)

/-- SP decremented, then one byte written at it. -/
def State.pushByte (s : State) (v : Byte) : Access :=
  (s.setSp (s.regs.sp - 1)).writeByte (s.regs.sp - 1) v

/-- `push16(v)`: decrement before write, high byte first (rule R15). -/
def State.push16 (s : State) (v : Word) : Access :=
  match s.pushByte (hiByte v) with
  | .fatal c t => .fatal c t
  | .done _ t => t.pushByte (loByte v)

/-- A push, and what follows it. -/
def State.withPush (s : State) (v : Word) (k : State → Result) : Result :=
  match s.push16 v with
  | .done _ t => k t
  | .fatal c t => .next (t.crash c)

/-- One byte read at SP, then SP incremented. -/
def State.popByte (s : State) : Acc Byte :=
  match s.readByte s.regs.sp with
  | .ok v => .done v (s.setSp (s.regs.sp + 1))
  | .error c => .fatal c s

/-- `pop16()`: increment after read, low byte first (rule R15). -/
def State.pop16 (s : State) : Acc Word :=
  match s.popByte with
  | .fatal c t => .fatal c t
  | .done lo t =>
    match t.popByte with
    | .fatal c u => .fatal c u
    | .done hi u => .done (joinBytes hi lo) u

/-- A pop, and what follows it. -/
def State.withPop (s : State) (k : Word → State → Result) : Result :=
  match s.pop16 with
  | .done v t => k v t
  | .fatal c t => .next (t.crash c)

/-! ## Fetch (rules R121, R153, R350) -/

/-- `n` bytes from ascending addresses. -/
def State.readBytes (s : State) : Nat → Word → Except Fatal (List Byte)
  | 0, _ => .ok []
  | n + 1, a =>
    match s.readByte a with
    | .error c => .error c
    | .ok v =>
      match s.readBytes n (a + 1) with
      | .error c => .error c
      | .ok vs => .ok (v :: vs)

/-- The instruction at PC: the opcode byte, then as many bytes as byte 0 says. Every opcode value decodes, so
the last case does not arise (law `decode_total`). -/
def State.fetch (s : State) : Except Fatal Instr :=
  match s.readByte s.regs.pc with
  | .error c => .error c
  | .ok op =>
    match s.readBytes (opLength op - 1) (s.regs.pc + 1) with
    | .error c => .error c
    | .ok rest =>
      match decode (op :: rest) with
      | .ok (i, _) => .ok i
      | .error _ => .error .unrecognizedInstruction

/-! ## Clocks (rule R350 sub-step 4) -/

/-- The timer, the display, the sound unit and the cartridge clock advance, in that order. -/
def State.advanceClocks (s : State) (cyc : Nat) : State :=
  (((s.timerAdvance cyc).displayAdvance cyc).soundAdvance cyc).rtcAdvance cyc

/-! ## Interrupts (rules R363 to R368) -/

/-- `flagged = IF & 0x1F` (rule R363). -/
def State.flagged (s : State) : Byte := s.ifReg &&& 0x1F

/-- `pending = IE & IF & 0x1F` (rule R363). -/
def State.pending (s : State) : Byte := s.ieReg &&& s.ifReg &&& 0x1F

/-- The wake check (rule R364). -/
def State.wake (s : State) : State :=
  let test := if s.params.wakeMaskedByIe then s.pending else s.flagged
  if test = 0 then s
  else { s with halt := false, stop := if s.params.stopWakeAnyFlag then false else s.stop }

/-- The lowest-numbered set bit of a 5-bit source mask: the fixed priority order of rule R366. -/
def lowestSource (m : Byte) : Option Nat := (List.range 5).find? fun i => bitOf m i

/-- The vector of source `i` (rule R366). -/
def vectorOf (i : Nat) : Word := BitVec.ofNat 16 (0x0040 + 8 * i)

/-- INT_DISPATCH_CYCLES propagated after a dispatch, "with no further interrupt check" (rule R365). An
advance takes a positive count (rule R402), so 0 propagates nothing. -/
def State.dispatchClocks (s : State) : State :=
  if s.params.intDispatchCycles = 0 then s else s.advanceClocks s.params.intDispatchCycles

/-- Taking the interrupt of source `i` (rules R365, R368): its flag and the master-enable are cleared, PC is
pushed, and PC is set to the vector. A stack write that raises crashes the machine. -/
def State.takeInterrupt (s : State) (i : Nat) : State :=
  let t := { s with ifReg := s.ifReg &&& ~~~((1 : Byte) <<< i), ime := false }
  match t.push16 s.regs.pc with
  | .fatal c u => u.crash c
  | .done _ u => (u.setPc (vectorOf i)).dispatchClocks

/-- Dispatch of at most one interrupt (rule R365). -/
def State.dispatch (s : State) : State :=
  if s.ime then
    match lowestSource s.pending with
    | some i => s.takeInterrupt i
    | none => s
  else s

/-- Sub-step 5 of rule R350. -/
def State.serviceInterrupts (s : State) : State := s.wake.dispatch

/-- The return from an interrupt (rules R320, R369): PC is popped and the master-enable set. -/
def State.returnFromInterrupt (s : State) (cycles : Nat) : Result :=
  s.withPop fun t u => ({ u with ime := true } : State).jump t cycles

/-! ## Master-enable after EI (rule R334) -/

/-- EI: with EI_DELAY = 0 the master-enable is set at once; else it is set after that many more instructions
have executed. An EI while the master-enable is set or on its way starts nothing new (log entry 7). -/
def State.enableInterrupts (s : State) : State :=
  if s.params.eiDelay = 0 then { s with ime := true }
  else if s.ime = true ∨ s.eiPending ≠ none then s
  else { s with eiPending := some s.params.eiDelay }

/-- DI: effective at once, and an enable on its way is off (rule R333: "the interrupt check of the same step
sees IME = false"). -/
def State.disableInterrupts (s : State) : State := { s with ime := false, eiPending := none }

/-- After an instruction has executed, the enable that was on its way before it comes one instruction nearer. -/
def State.settleEnable (s : State) (before : Option Nat) : State :=
  match before, s.eiPending with
  | some k, some _ =>
    if k ≤ 1 then { s with ime := true, eiPending := none } else { s with eiPending := some (k - 1) }
  | _, _ => s

/-! ## Parts of the step (rule R350) -/

/-- Sub-step 1: what the host shows at this boundary; its new events join the queue. -/
def State.hostBoundary (s : State) : HostTick × State :=
  match s.host.ticks with
  | [] => (⟨false, false, []⟩, s)
  | t :: rest => (t, { s with host := { s.host with ticks := rest, events := s.host.events ++ t.arrivals } })

/-- Sub-steps 4 and 5 after an executed instruction, unless it has crashed (rule R356). -/
def State.endOfStep (s : State) (before : Option Nat) : State :=
  match s.run with
  | .running => ((s.settleEnable before).advanceClocks s.cyc).serviceInterrupts
  | _ => s

/-- Sub-steps 3a, 4 and 5 in halt or stop: IDLE_CYCLES, no fetch, PC unchanged (rule R370). -/
def State.idleStep (s : State) : State :=
  ((s.setCyc s.params.idleCycles).advanceClocks s.params.idleCycles).serviceInterrupts

end Sys2Proof.Machine
end

