-- ==== Sys2Proof/Machine/Operands.lean ====
section
/-! DEFINITION. The operand forms and addressing modes (rules R13, R190), and the conditions (rule R145). -/

namespace Sys2Proof.Machine

/-! ## Effective addresses (rule R190) -/

/-- High-page absolute: `0xFF00 + n`. -/
def highPage (n : Byte) : Word := 0xFF00 + n.zeroExtend 16

/-- High-page indexed: `0xFF00 + C`. -/
def State.highPageC (s : State) : Word := highPage s.regs.c

/-- HL after the access of the post-increment mode. -/
def State.bumpHl (s : State) : State := s.setHl (s.hl + 1)

/-- HL after the access of the post-decrement mode. -/
def State.dropHl (s : State) : State := s.setHl (s.hl - 1)

/-- The address of the following instruction (rule R310). -/
def State.nextPc (s : State) (len : Nat) : Word := s.regs.pc + BitVec.ofNat 16 len

/-- The target of a relative jump of length 2 (rules R147, R314). -/
def State.relTarget (s : State) (e : Byte) : Word := s.nextPc 2 + sext16 e

/-! ## Flags as operands (rules R22, R145) -/

/-- F.Z. -/
def State.fz (s : State) : Bool := bitOf s.regs.f 7

/-- F.N. -/
def State.fn (s : State) : Bool := bitOf s.regs.f 6

/-- F.H. -/
def State.fh (s : State) : Bool := bitOf s.regs.f 5

/-- F.C. -/
def State.fc (s : State) : Bool := bitOf s.regs.f 4

/-- `cond(cc)`. -/
def State.holds (s : State) : Cond → Bool
  | .nz => !s.fz
  | .z => s.fz
  | .nc => !s.fc
  | .c => s.fc

/-! ## Read-modify-write of the byte at HL -/

/-- `v <- MemRead(HL,1); MemWrite(HL,1,f v)`, and what follows, given `v` and the state after the write. -/
def State.modifyHl (s : State) (f : Byte → Byte) (k : Byte → State → Result) : Result :=
  s.withLoad s.hl fun v => s.withStore s.hl (f v) fun t => k v t

end Sys2Proof.Machine
end

