-- ==== Sys2Proof/Machine/Flags.lean ====
section
/-! DEFINITION. The arithmetic, logic, rotate and shift helpers with their flags (rules R215, R216, R241,
R243, R245, R265, R203, R268, R275), computed on integers as the rules write them. -/

namespace Sys2Proof.Machine

/-- F from the four flags: Z, N, H, C in bits 7 to 4, the low nibble zero (rule R22). -/
def packFlags (z n h c : Bool) : Byte :=
  BitVec.ofNat 8 (128 * z.toNat + 64 * n.toNat + 32 * h.toNat + 16 * c.toNat)

/-- All four flags written. -/
def State.setFlags (s : State) (z n h c : Bool) : State :=
  { s with regs := { s.regs with f := packFlags z n h c } }

/-- A result byte with its four flags. -/
structure AluOut where
  res : Byte
  z : Bool
  n : Bool
  h : Bool
  c : Bool
  deriving DecidableEq, Repr

/-! ## 8-bit arithmetic and logic (rule R215) -/

/-- `add8(a, b, c)`. -/
def add8 (a b : Byte) (c : Bool) : AluOut :=
  let sum := a.toNat + b.toNat + c.toNat
  let res : Byte := BitVec.ofNat 8 sum
  { res := res
    z := decide (res = 0)
    n := false
    h := decide (0xF < a.toNat % 16 + b.toNat % 16 + c.toNat)
    c := decide (0xFF < sum) }

/-- `sub8(a, b, c)`. -/
def sub8 (a b : Byte) (c : Bool) : AluOut :=
  let d : Int := (a.toNat : Int) - b.toNat - c.toNat
  let res : Byte := BitVec.ofInt 8 d
  { res := res
    z := decide (res = 0)
    n := true
    h := decide (((a.toNat % 16 : Nat) : Int) - (b.toNat % 16 : Nat) - c.toNat < 0)
    c := decide (d < 0) }

/-- `and8(a, b)`. -/
def and8 (a b : Byte) : AluOut :=
  { res := a &&& b, z := decide (a &&& b = 0), n := false, h := true, c := false }

/-- `xor8(a, b)`. -/
def xor8 (a b : Byte) : AluOut :=
  { res := a ^^^ b, z := decide (a ^^^ b = 0), n := false, h := false, c := false }

/-- `or8(a, b)`. -/
def or8 (a b : Byte) : AluOut :=
  { res := a ||| b, z := decide (a ||| b = 0), n := false, h := false, c := false }

/-- `(A, F) <- out`. -/
def State.setAluA (s : State) (o : AluOut) : State := (s.setReg .a o.res).setFlags o.z o.n o.h o.c

/-- `(_, F) <- out`: A is not written (rule R238). -/
def State.setAluFlags (s : State) (o : AluOut) : State := s.setFlags o.z o.n o.h o.c

/-! ## INC, DEC (rules R241, R243) -/

/-- The byte INC gives. -/
def inc8 (v : Byte) : Byte := BitVec.ofNat 8 (v.toNat + 1)

/-- The byte DEC gives. -/
def dec8 (v : Byte) : Byte := BitVec.ofInt 8 ((v.toNat : Int) - 1)

/-- The flags of INC on the old value `v`; C unchanged. -/
def State.setIncFlags (s : State) (v : Byte) : State :=
  s.setFlags (decide (inc8 v = 0)) false (decide (v.toNat % 16 = 0xF)) s.fc

/-- The flags of DEC on the old value `v`; C unchanged. -/
def State.setDecFlags (s : State) (v : Byte) : State :=
  s.setFlags (decide (dec8 v = 0)) true (decide (v.toNat % 16 = 0)) s.fc

/-! ## DAA (rule R245) -/

/-- The adjustment of the N = 0 branch. -/
def daaAddAdjust (a : Byte) (h c : Bool) : Nat :=
  (if h = true ∨ 0x09 < a.toNat % 16 then 0x06 else 0) + (if c = true ∨ 0x99 < a.toNat then 0x60 else 0)

/-- The adjustment of the N = 1 branch. -/
def daaSubAdjust (h c : Bool) : Nat := (if h then 0x06 else 0) + (if c then 0x60 else 0)

/-- The result of DAA and its carry. -/
def daaOut (a : Byte) (n h c : Bool) : AluOut :=
  if n then
    let res : Byte := BitVec.ofInt 8 ((a.toNat : Int) - daaSubAdjust h c)
    { res := res, z := decide (res = 0), n := true, h := false, c := c }
  else
    let res : Byte := BitVec.ofNat 8 (a.toNat + daaAddAdjust a h c)
    { res := res, z := decide (res = 0), n := false, h := false, c := c || decide (0x99 < a.toNat) }

/-! ## 16-bit sums (rules R265, R203, R268) -/

/-- H and C of `x + y` as a 16-bit operation: overflow of the low 12 bits and of all 16. -/
def wordCarries (x y : Word) : Bool × Bool :=
  (decide (0x0FFF < x.toNat % 4096 + y.toNat % 4096), decide (0xFFFF < x.toNat + y.toNat))

/-- H and C of ADD SP,e and LD HL,SP+e (rules R203, R268): in the `byte` form from the low nibbles and low
bytes of SP and the displacement byte as an unsigned number. -/
def spCarries (form : SpEFlags) (sp : Word) (e : Byte) : Bool × Bool :=
  match form with
  | .byte =>
    (decide (0xF < sp.toNat % 16 + e.toNat % 16), decide (0xFF < sp.toNat % 256 + e.toNat))
  | .word => wordCarries sp (sext16 e)

/-- The flags of ADD SP,e and LD HL,SP+e: Z and N cleared. -/
def State.setSpFlags (s : State) (sp : Word) (e : Byte) : State :=
  s.setFlags false false (spCarries s.params.spEFlags sp e).1 (spCarries s.params.spEFlags sp e).2

/-! ## Rotates and shifts (rule R275), each with the bit shifted out -/

/-- A bit as a byte. -/
def bitByte (b : Bool) : Byte := if b then 1 else 0

def rlc (v : Byte) : Byte × Bool := ((v <<< 1) ||| bitByte (bitOf v 7), bitOf v 7)

def rrc (v : Byte) : Byte × Bool := ((v >>> 1) ||| (bitByte (bitOf v 0) <<< 7), bitOf v 0)

def rl (v : Byte) (c : Bool) : Byte × Bool := ((v <<< 1) ||| bitByte c, bitOf v 7)

def rr (v : Byte) (c : Bool) : Byte × Bool := ((v >>> 1) ||| (bitByte c <<< 7), bitOf v 0)

def sla (v : Byte) : Byte × Bool := (v <<< 1, bitOf v 7)

def sra (v : Byte) : Byte × Bool := ((v >>> 1) ||| (v &&& 0x80), bitOf v 0)

def srl (v : Byte) : Byte × Bool := (v >>> 1, bitOf v 0)

def swap (v : Byte) : Byte × Bool := ((v <<< 4) ||| (v >>> 4), false)

/-- The flags of the accumulator rotates: Z cleared (rule R276). -/
def State.setRotAFlags (s : State) (c : Bool) : State := s.setFlags false false false c

/-- The flags of the extended rotates and shifts: Z from the result (rule R280). -/
def State.setShiftFlags (s : State) (out : Byte × Bool) : State :=
  s.setFlags (decide (out.1 = 0)) false false out.2

/-! ## Single bits (rules R296, R298, R300) -/

/-- `1 << b`. -/
def bitMask (b : BitVec 3) : Byte := (1 : Byte) <<< b.toNat

/-- `v & ~(1 << b)`. -/
def clearBit (b : BitVec 3) (v : Byte) : Byte := v &&& ~~~(bitMask b)

/-- `v | (1 << b)`. -/
def raiseBit (b : BitVec 3) (v : Byte) : Byte := v ||| bitMask b

/-- The flags of BIT on the operand `v`: Z when the bit is 0, C unchanged. -/
def State.setBitFlags (s : State) (b : BitVec 3) (v : Byte) : State :=
  s.setFlags (!bitOf v b.toNat) false true s.fc

end Sys2Proof.Machine
end

