-- ==== Sys2Proof/Machine/Alu16.lean ====
section
/-! DEFINITION. The 16-bit arithmetic instructions (43_alu16.md, rules R265 to R269). -/

namespace Sys2Proof.Machine

/-- ADD HL,rr (rule R265): Z unchanged. -/
def execAddHlRr (rr : PairRR) (s : State) : Result :=
  let hc := wordCarries s.hl (s.rr rr)
  ((s.setHl (s.hl + s.rr rr)).setFlags s.fz false hc.1 hc.2).retire 1 8

/-- INC rr (rule R266). -/
def execIncRr (rr : PairRR) (s : State) : Result := (s.setRr rr (s.rr rr + 1)).retire 1 8

/-- DEC rr (rule R267). -/
def execDecRr (rr : PairRR) (s : State) : Result := (s.setRr rr (s.rr rr - 1)).retire 1 8

/-- ADD SP,e (rule R268). -/
def execAddSpE (e : Byte) (s : State) : Result :=
  ((s.setSp (s.regs.sp + sext16 e)).setSpFlags s.regs.sp e).retire 2 16

end Sys2Proof.Machine
end

