-- ==== Sys2Proof/Machine/Alu8.lean ====
section
/-! DEFINITION. The 8-bit arithmetic and logic instructions (42_alu8.md, rules R215 to R249). -/

namespace Sys2Proof.Machine

/-- ADD A,r (rule R217). -/
def execAddAR (r : Reg8) (s : State) : Result :=
  (s.setAluA (add8 s.regs.a (s.reg r) false)).retire 1 4

/-- ADD A,(HL) (rule R218). -/
def execAddAHl (s : State) : Result :=
  s.withLoad s.hl fun v => (s.setAluA (add8 s.regs.a v false)).retire 1 8

/-- ADD A,n (rule R219). -/
def execAddAN (n : Byte) (s : State) : Result :=
  (s.setAluA (add8 s.regs.a n false)).retire 2 8

/-- ADC A,r (rule R220). -/
def execAdcAR (r : Reg8) (s : State) : Result :=
  (s.setAluA (add8 s.regs.a (s.reg r) s.fc)).retire 1 4

/-- ADC A,(HL) (rule R221). -/
def execAdcAHl (s : State) : Result :=
  s.withLoad s.hl fun v => (s.setAluA (add8 s.regs.a v s.fc)).retire 1 8

/-- ADC A,n (rule R222). -/
def execAdcAN (n : Byte) (s : State) : Result :=
  (s.setAluA (add8 s.regs.a n s.fc)).retire 2 8

/-- SUB r (rule R223). -/
def execSubR (r : Reg8) (s : State) : Result :=
  (s.setAluA (sub8 s.regs.a (s.reg r) false)).retire 1 4

/-- SUB (HL) (rule R224). -/
def execSubHl (s : State) : Result :=
  s.withLoad s.hl fun v => (s.setAluA (sub8 s.regs.a v false)).retire 1 8

/-- SUB n (rule R225). -/
def execSubN (n : Byte) (s : State) : Result :=
  (s.setAluA (sub8 s.regs.a n false)).retire 2 8

/-- SBC A,r (rule R226). -/
def execSbcAR (r : Reg8) (s : State) : Result :=
  (s.setAluA (sub8 s.regs.a (s.reg r) s.fc)).retire 1 4

/-- SBC A,(HL) (rule R227). -/
def execSbcAHl (s : State) : Result :=
  s.withLoad s.hl fun v => (s.setAluA (sub8 s.regs.a v s.fc)).retire 1 8

/-- SBC A,n (rule R228). -/
def execSbcAN (n : Byte) (s : State) : Result :=
  (s.setAluA (sub8 s.regs.a n s.fc)).retire 2 8

/-- AND r (rule R229). -/
def execAndR (r : Reg8) (s : State) : Result :=
  (s.setAluA (and8 s.regs.a (s.reg r))).retire 1 4

/-- AND (HL) (rule R230). -/
def execAndHl (s : State) : Result :=
  s.withLoad s.hl fun v => (s.setAluA (and8 s.regs.a v)).retire 1 8

/-- AND n (rule R231). -/
def execAndN (n : Byte) (s : State) : Result :=
  (s.setAluA (and8 s.regs.a n)).retire 2 8

/-- XOR r (rule R232). -/
def execXorR (r : Reg8) (s : State) : Result :=
  (s.setAluA (xor8 s.regs.a (s.reg r))).retire 1 4

/-- XOR (HL) (rule R233). -/
def execXorHl (s : State) : Result :=
  s.withLoad s.hl fun v => (s.setAluA (xor8 s.regs.a v)).retire 1 8

/-- XOR n (rule R234). -/
def execXorN (n : Byte) (s : State) : Result :=
  (s.setAluA (xor8 s.regs.a n)).retire 2 8

/-- OR r (rule R235). -/
def execOrR (r : Reg8) (s : State) : Result :=
  (s.setAluA (or8 s.regs.a (s.reg r))).retire 1 4

/-- OR (HL) (rule R236). -/
def execOrHl (s : State) : Result :=
  s.withLoad s.hl fun v => (s.setAluA (or8 s.regs.a v)).retire 1 8

/-- OR n (rule R237). -/
def execOrN (n : Byte) (s : State) : Result :=
  (s.setAluA (or8 s.regs.a n)).retire 2 8

/-- CP r (rule R238). -/
def execCpR (r : Reg8) (s : State) : Result :=
  (s.setAluFlags (sub8 s.regs.a (s.reg r) false)).retire 1 4

/-- CP (HL) (rule R239). -/
def execCpHl (s : State) : Result :=
  s.withLoad s.hl fun v => (s.setAluFlags (sub8 s.regs.a v false)).retire 1 8

/-- CP n (rule R240). -/
def execCpN (n : Byte) (s : State) : Result :=
  (s.setAluFlags (sub8 s.regs.a n false)).retire 2 8

/-- INC r (rule R241). -/
def execIncR (r : Reg8) (s : State) : Result :=
  ((s.setReg r (inc8 (s.reg r))).setIncFlags (s.reg r)).retire 1 4

/-- INC (HL) (rule R242): the flags are written only if neither access raises. -/
def execIncHlMem (s : State) : Result := s.modifyHl inc8 fun v t => (t.setIncFlags v).retire 1 12

/-- DEC r (rule R243). -/
def execDecR (r : Reg8) (s : State) : Result :=
  ((s.setReg r (dec8 (s.reg r))).setDecFlags (s.reg r)).retire 1 4

/-- DEC (HL) (rule R244). -/
def execDecHlMem (s : State) : Result := s.modifyHl dec8 fun v t => (t.setDecFlags v).retire 1 12

/-- DAA (rule R245). -/
def execDaa (s : State) : Result := (s.setAluA (daaOut s.regs.a s.fn s.fh s.fc)).retire 1 4

/-- CPL (rule R246). -/
def execCpl (s : State) : Result :=
  ((s.setReg .a (s.regs.a ^^^ 0xFF)).setFlags s.fz true true s.fc).retire 1 4

/-- SCF (rule R247). -/
def execScf (s : State) : Result := (s.setFlags s.fz false false true).retire 1 4

/-- CCF (rule R248). -/
def execCcf (s : State) : Result := (s.setFlags s.fz false false (!s.fc)).retire 1 4

end Sys2Proof.Machine
end

