-- ==== Sys2Proof/Machine/Control.lean ====
section
/-! DEFINITION. The control transfers (45_control.md, rules R310 to R323). A taken transfer assigns pc; one
not taken leaves the address of the following instruction. None changes a flag. -/

namespace Sys2Proof.Machine

/-- `push16(next); pc <- t` (rules R316, R322). -/
def State.call (s : State) (len : Nat) (t : Word) (cycles : Nat) : Result :=
  s.withPush (s.nextPc len) fun u => u.jump t cycles

/-- `pc <- pop16()` (rule R318). -/
def State.return (s : State) (cycles : Nat) : Result := s.withPop fun t u => u.jump t cycles

/-- JP nn (rule R311). -/
def execJpNn (nn : Word) (s : State) : Result := s.jump nn 16

/-- JP cc,nn (rule R312). -/
def execJpCcNn (cc : Cond) (nn : Word) (s : State) : Result :=
  if s.holds cc then s.jump nn 16 else s.retire 3 12

/-- JP HL (rule R313). -/
def execJpHl (s : State) : Result := s.jump s.hl 4

/-- JR e (rule R314). -/
def execJrE (e : Byte) (s : State) : Result := s.jump (s.relTarget e) 12

/-- JR cc,e (rule R315). -/
def execJrCcE (cc : Cond) (e : Byte) (s : State) : Result :=
  if s.holds cc then s.jump (s.relTarget e) 12 else s.retire 2 8

/-- CALL nn (rule R316). -/
def execCallNn (nn : Word) (s : State) : Result := s.call 3 nn 24

/-- CALL cc,nn (rule R317). -/
def execCallCcNn (cc : Cond) (nn : Word) (s : State) : Result :=
  if s.holds cc then s.call 3 nn 24 else s.retire 3 12

/-- RET (rule R318). -/
def execRet (s : State) : Result := s.return 16

/-- RET cc (rule R319). -/
def execRetCc (cc : Cond) (s : State) : Result := if s.holds cc then s.return 20 else s.retire 1 8

/-- RETI (rule R320). -/
def execReti (s : State) : Result := s.returnFromInterrupt 16

/-- RST t (rule R322). -/
def execRstT (t : BitVec 3) (s : State) : Result := s.call 1 (BitVec.ofNat 16 (8 * t.toNat)) 16

end Sys2Proof.Machine
end

