-- ==== Sys2Proof/Machine/Load16.lean ====
section
/-! DEFINITION. The 16-bit loads and the stack instructions (41_load16.md, rules R200 to R206). -/

namespace Sys2Proof.Machine

/-- LD rr,nn (rule R200). -/
def execLdRrNn (rr : PairRR) (nn : Word) (s : State) : Result := (s.setRr rr nn).retire 3 12

/-- LD (nn),SP (rule R201). -/
def execLdNnSp (nn : Word) (s : State) : Result := s.withStoreWord nn s.regs.sp fun t => t.retire 3 20

/-- LD SP,HL (rule R202). -/
def execLdSpHl (s : State) : Result := (s.setSp s.hl).retire 1 8

/-- LD HL,SP+e (rule R203). -/
def execLdHlSpE (e : Byte) (s : State) : Result :=
  ((s.setHl (s.regs.sp + sext16 e)).setSpFlags s.regs.sp e).retire 2 12

/-- PUSH qq (rule R204). -/
def execPushQq (qq : PairQQ) (s : State) : Result := s.withPush (s.qq qq) fun t => t.retire 1 16

/-- POP qq (rule R205). -/
def execPopQq (qq : PairQQ) (s : State) : Result := s.withPop fun v t => (t.setQq qq v).retire 1 12

/-- POP AF (rule R206). -/
def execPopAf (s : State) : Result := s.withPop fun v t => (t.setAf v).retire 1 12

end Sys2Proof.Machine
end

