-- ==== Sys2Proof/Machine/Load8.lean ====
section
/-! DEFINITION. The 8-bit loads (40_load8.md, rules R170 to R190). No 8-bit load changes a flag. -/

namespace Sys2Proof.Machine

/-- LD r,r' (rule R171). -/
def execLdRR (dst src : Reg8) (s : State) : Result := (s.setReg dst (s.reg src)).retire 1 4

/-- LD r,n (rule R172). -/
def execLdRN (r : Reg8) (n : Byte) (s : State) : Result := (s.setReg r n).retire 2 8

/-- LD r,(HL) (rule R173). -/
def execLdRHl (r : Reg8) (s : State) : Result := s.withLoad s.hl fun v => (s.setReg r v).retire 1 8

/-- LD (HL),r (rule R174). -/
def execLdHlR (r : Reg8) (s : State) : Result := s.withStore s.hl (s.reg r) fun t => t.retire 1 8

/-- LD (HL),n (rule R175). -/
def execLdHlN (n : Byte) (s : State) : Result := s.withStore s.hl n fun t => t.retire 2 12

/-- LD A,(BC) (rule R176). -/
def execLdABc (s : State) : Result := s.withLoad s.bc fun v => (s.setReg .a v).retire 1 8

/-- LD A,(DE) (rule R177). -/
def execLdADe (s : State) : Result := s.withLoad s.de fun v => (s.setReg .a v).retire 1 8

/-- LD (BC),A (rule R178). -/
def execLdBcA (s : State) : Result := s.withStore s.bc s.regs.a fun t => t.retire 1 8

/-- LD (DE),A (rule R179). -/
def execLdDeA (s : State) : Result := s.withStore s.de s.regs.a fun t => t.retire 1 8

/-- LD A,(nn) (rule R180). -/
def execLdANn (nn : Word) (s : State) : Result := s.withLoad nn fun v => (s.setReg .a v).retire 3 16

/-- LD (nn),A (rule R181). -/
def execLdNnA (nn : Word) (s : State) : Result := s.withStore nn s.regs.a fun t => t.retire 3 16

/-- LDH A,(n) (rule R182). -/
def execLdhAN (n : Byte) (s : State) : Result :=
  s.withLoad (highPage n) fun v => (s.setReg .a v).retire 2 12

/-- LDH (n),A (rule R183). -/
def execLdhNA (n : Byte) (s : State) : Result :=
  s.withStore (highPage n) s.regs.a fun t => t.retire 2 12

/-- LDH A,(C) (rule R184). -/
def execLdhAC (s : State) : Result := s.withLoad s.highPageC fun v => (s.setReg .a v).retire 1 8

/-- LDH (C),A (rule R185). -/
def execLdhCA (s : State) : Result := s.withStore s.highPageC s.regs.a fun t => t.retire 1 8

/-- LD (HL+),A (rule R186): HL is incremented only if the write does not raise. -/
def execLdHliA (s : State) : Result := s.withStore s.hl s.regs.a fun t => t.bumpHl.retire 1 8

/-- LD A,(HL+) (rule R187). -/
def execLdAHli (s : State) : Result := s.withLoad s.hl fun v => (s.setReg .a v).bumpHl.retire 1 8

/-- LD (HL-),A (rule R188). -/
def execLdHldA (s : State) : Result := s.withStore s.hl s.regs.a fun t => t.dropHl.retire 1 8

/-- LD A,(HL-) (rule R189). -/
def execLdAHld (s : State) : Result := s.withLoad s.hl fun v => (s.setReg .a v).dropHl.retire 1 8

end Sys2Proof.Machine
end

