-- ==== Sys2Proof/Machine/RotateShiftBit.lean ====
section
/-! DEFINITION. The rotate, shift and bit instructions (44_rotate_shift_bit.md, rules R275 to R301). -/

namespace Sys2Proof.Machine

/-- The shape of the accumulator rotates (rules R276 to R279). -/
def State.rotateA (s : State) (out : Byte × Bool) : Result :=
  ((s.setReg .a out.1).setRotAFlags out.2).retire 1 4

/-- The shape of the extended rotates and shifts of a register. -/
def State.shiftReg (s : State) (r : Reg8) (out : Byte × Bool) : Result :=
  ((s.setReg r out.1).setShiftFlags out).retire 2 8

/-- The shape of the extended rotates and shifts of the byte at HL. -/
def State.shiftHl (s : State) (f : Byte → Byte × Bool) : Result :=
  s.modifyHl (fun v => (f v).1) fun v t => (t.setShiftFlags (f v)).retire 2 16

/-- RLCA (rule R276). -/
def execRlca (s : State) : Result := s.rotateA (rlc s.regs.a)

/-- RRCA (rule R277). -/
def execRrca (s : State) : Result := s.rotateA (rrc s.regs.a)

/-- RLA (rule R278). -/
def execRla (s : State) : Result := s.rotateA (rl s.regs.a s.fc)

/-- RRA (rule R279). -/
def execRra (s : State) : Result := s.rotateA (rr s.regs.a s.fc)

/-- RLC r (rule R280). -/
def execRlcR (r : Reg8) (s : State) : Result := s.shiftReg r (rlc (s.reg r))

/-- RLC (HL) (rule R281). -/
def execRlcHl (s : State) : Result := s.shiftHl rlc

/-- RRC r (rule R282). -/
def execRrcR (r : Reg8) (s : State) : Result := s.shiftReg r (rrc (s.reg r))

/-- RRC (HL) (rule R283). -/
def execRrcHl (s : State) : Result := s.shiftHl rrc

/-- RL r (rule R284). -/
def execRlR (r : Reg8) (s : State) : Result := s.shiftReg r (rl (s.reg r) s.fc)

/-- RL (HL) (rule R285). -/
def execRlHl (s : State) : Result := s.shiftHl fun v => rl v s.fc

/-- RR r (rule R286). -/
def execRrR (r : Reg8) (s : State) : Result := s.shiftReg r (rr (s.reg r) s.fc)

/-- RR (HL) (rule R287). -/
def execRrHl (s : State) : Result := s.shiftHl fun v => rr v s.fc

/-- SLA r (rule R288). -/
def execSlaR (r : Reg8) (s : State) : Result := s.shiftReg r (sla (s.reg r))

/-- SLA (HL) (rule R289). -/
def execSlaHl (s : State) : Result := s.shiftHl sla

/-- SRA r (rule R290). -/
def execSraR (r : Reg8) (s : State) : Result := s.shiftReg r (sra (s.reg r))

/-- SRA (HL) (rule R291). -/
def execSraHl (s : State) : Result := s.shiftHl sra

/-- SWAP r (rule R292). -/
def execSwapR (r : Reg8) (s : State) : Result := s.shiftReg r (swap (s.reg r))

/-- SWAP (HL) (rule R293). -/
def execSwapHl (s : State) : Result := s.shiftHl swap

/-- SRL r (rule R294). -/
def execSrlR (r : Reg8) (s : State) : Result := s.shiftReg r (srl (s.reg r))

/-- SRL (HL) (rule R295). -/
def execSrlHl (s : State) : Result := s.shiftHl srl

/-- BIT b,r (rule R296). -/
def execBitR (b : BitVec 3) (r : Reg8) (s : State) : Result := (s.setBitFlags b (s.reg r)).retire 2 8

/-- BIT b,(HL) (rule R297): nothing is written to memory. -/
def execBitHl (b : BitVec 3) (s : State) : Result :=
  s.withLoad s.hl fun v => (s.setBitFlags b v).retire 2 12

/-- RES b,r (rule R298). -/
def execResR (b : BitVec 3) (r : Reg8) (s : State) : Result :=
  (s.setReg r (clearBit b (s.reg r))).retire 2 8

/-- RES b,(HL) (rule R299): the write happens even when the bit was 0. -/
def execResHl (b : BitVec 3) (s : State) : Result := s.modifyHl (clearBit b) fun _ t => t.retire 2 16

/-- SET b,r (rule R300). -/
def execSetR (b : BitVec 3) (r : Reg8) (s : State) : Result :=
  (s.setReg r (raiseBit b (s.reg r))).retire 2 8

/-- SET b,(HL) (rule R301). -/
def execSetHl (b : BitVec 3) (s : State) : Result := s.modifyHl (raiseBit b) fun _ t => t.retire 2 16

end Sys2Proof.Machine
end

