-- ==== Sys2Proof/Machine/System.lean ====
section
/-! DEFINITION. The system instructions, the prefix and the eleven unrecognized opcodes (46_system.md, rules
R330 to R337). -/

namespace Sys2Proof.Machine

/-- NOP (rule R330). -/
def execNop (s : State) : Result := s.retire 1 4

/-- HALT (rule R331). -/
def execHalt (s : State) : Result := ({ s with halt := true } : State).retire 1 4

/-- STOP (rule R332): the second byte is not examined. -/
def execStop (_n : Byte) (s : State) : Result := ({ s with stop := true } : State).retire 2 4

/-- DI (rule R333). -/
def execDi (s : State) : Result := s.disableInterrupts.retire 1 4

/-- EI (rule R334). -/
def execEi (s : State) : Result := s.enableInterrupts.retire 1 4

/-- The prefix 0xCB (rule R335): it executes the extended-table entry `op2` and has no effect of its own. -/
def execPrefixCb (op2 : Byte) (s : State) : Result :=
  let b := yField op2
  match Reg8.ofCode (zField op2), op2.toNat / 8 with
  | some r, 0 => execRlcR r s
  | some r, 1 => execRrcR r s
  | some r, 2 => execRlR r s
  | some r, 3 => execRrR r s
  | some r, 4 => execSlaR r s
  | some r, 5 => execSraR r s
  | some r, 6 => execSwapR r s
  | some r, 7 => execSrlR r s
  | none, 0 => execRlcHl s
  | none, 1 => execRrcHl s
  | none, 2 => execRlHl s
  | none, 3 => execRrHl s
  | none, 4 => execSlaHl s
  | none, 5 => execSraHl s
  | none, 6 => execSwapHl s
  | none, 7 => execSrlHl s
  | some r, n => if n < 16 then execBitR b r s else if n < 24 then execResR b r s else execSetR b r s
  | none, n => if n < 16 then execBitHl b s else if n < 24 then execResHl b s else execSetHl b s

/-- An opcode with no table entry (rule R336): `raise Fatal(UnrecognizedInstruction)`. "No register, flag or
memory byte changes, `pc` stays at the opcode, no cycles are reported, no interrupt check follows." -/
def State.unrecognized (s : State) : Result := .next { s with run := .crashed .unrecognizedInstruction }

/-- The unrecognized opcode 0xD3 (rule R336). -/
def execUnrecD3 (s : State) : Result := s.unrecognized

/-- The unrecognized opcode 0xDB (rule R336). -/
def execUnrecDB (s : State) : Result := s.unrecognized

/-- The unrecognized opcode 0xDD (rule R336). -/
def execUnrecDD (s : State) : Result := s.unrecognized

/-- The unrecognized opcode 0xE3 (rule R336). -/
def execUnrecE3 (s : State) : Result := s.unrecognized

/-- The unrecognized opcode 0xE4 (rule R336). -/
def execUnrecE4 (s : State) : Result := s.unrecognized

/-- The unrecognized opcode 0xEB (rule R336). -/
def execUnrecEB (s : State) : Result := s.unrecognized

/-- The unrecognized opcode 0xEC (rule R336). -/
def execUnrecEC (s : State) : Result := s.unrecognized

/-- The unrecognized opcode 0xED (rule R336). -/
def execUnrecED (s : State) : Result := s.unrecognized

/-- The unrecognized opcode 0xF4 (rule R336). -/
def execUnrecF4 (s : State) : Result := s.unrecognized

/-- The unrecognized opcode 0xFC (rule R336). -/
def execUnrecFC (s : State) : Result := s.unrecognized

/-- The unrecognized opcode 0xFD (rule R336). -/
def execUnrecFD (s : State) : Result := s.unrecognized

end Sys2Proof.Machine
end

