-- ==== Sys2Proof/Machine/Dispatch.lean ====
section
/-! DEFINITION. The dispatch of an instruction to its meaning, one arm per constructor. -/

namespace Sys2Proof.Machine

def exec (i : Instr) (s : State) : Host.Outcome State Fault Refusal :=
  match i with
  | .nop => Sys2Proof.Machine.execNop s
  | .ldBcA => Sys2Proof.Machine.execLdBcA s
  | .ldDeA => Sys2Proof.Machine.execLdDeA s
  | .ldHliA => Sys2Proof.Machine.execLdHliA s
  | .ldHldA => Sys2Proof.Machine.execLdHldA s
  | .incHlMem => Sys2Proof.Machine.execIncHlMem s
  | .decHlMem => Sys2Proof.Machine.execDecHlMem s
  | .ldHlN n => Sys2Proof.Machine.execLdHlN n s
  | .rlca => Sys2Proof.Machine.execRlca s
  | .rrca => Sys2Proof.Machine.execRrca s
  | .rla => Sys2Proof.Machine.execRla s
  | .rra => Sys2Proof.Machine.execRra s
  | .ldNnSp nn => Sys2Proof.Machine.execLdNnSp nn s
  | .ldABc => Sys2Proof.Machine.execLdABc s
  | .ldADe => Sys2Proof.Machine.execLdADe s
  | .ldAHli => Sys2Proof.Machine.execLdAHli s
  | .ldAHld => Sys2Proof.Machine.execLdAHld s
  | .stop n => Sys2Proof.Machine.execStop n s
  | .jrE e => Sys2Proof.Machine.execJrE e s
  | .daa => Sys2Proof.Machine.execDaa s
  | .cpl => Sys2Proof.Machine.execCpl s
  | .scf => Sys2Proof.Machine.execScf s
  | .ccf => Sys2Proof.Machine.execCcf s
  | .halt => Sys2Proof.Machine.execHalt s
  | .addAHl => Sys2Proof.Machine.execAddAHl s
  | .adcAHl => Sys2Proof.Machine.execAdcAHl s
  | .subHl => Sys2Proof.Machine.execSubHl s
  | .sbcAHl => Sys2Proof.Machine.execSbcAHl s
  | .andHl => Sys2Proof.Machine.execAndHl s
  | .xorHl => Sys2Proof.Machine.execXorHl s
  | .orHl => Sys2Proof.Machine.execOrHl s
  | .cpHl => Sys2Proof.Machine.execCpHl s
  | .popAf => Sys2Proof.Machine.execPopAf s
  | .jpNn nn => Sys2Proof.Machine.execJpNn nn s
  | .addAN n => Sys2Proof.Machine.execAddAN n s
  | .adcAN n => Sys2Proof.Machine.execAdcAN n s
  | .subN n => Sys2Proof.Machine.execSubN n s
  | .sbcAN n => Sys2Proof.Machine.execSbcAN n s
  | .andN n => Sys2Proof.Machine.execAndN n s
  | .xorN n => Sys2Proof.Machine.execXorN n s
  | .orN n => Sys2Proof.Machine.execOrN n s
  | .cpN n => Sys2Proof.Machine.execCpN n s
  | .ret => Sys2Proof.Machine.execRet s
  | .prefixCb op2 => Sys2Proof.Machine.execPrefixCb op2 s
  | .callNn nn => Sys2Proof.Machine.execCallNn nn s
  | .reti => Sys2Proof.Machine.execReti s
  | .ldhNA n => Sys2Proof.Machine.execLdhNA n s
  | .ldhAN n => Sys2Proof.Machine.execLdhAN n s
  | .ldhCA => Sys2Proof.Machine.execLdhCA s
  | .ldhAC => Sys2Proof.Machine.execLdhAC s
  | .addSpE e => Sys2Proof.Machine.execAddSpE e s
  | .jpHl => Sys2Proof.Machine.execJpHl s
  | .ldNnA nn => Sys2Proof.Machine.execLdNnA nn s
  | .ldANn nn => Sys2Proof.Machine.execLdANn nn s
  | .di => Sys2Proof.Machine.execDi s
  | .ei => Sys2Proof.Machine.execEi s
  | .ldHlSpE e => Sys2Proof.Machine.execLdHlSpE e s
  | .ldSpHl => Sys2Proof.Machine.execLdSpHl s
  | .unrecD3 => Sys2Proof.Machine.execUnrecD3 s
  | .unrecDB => Sys2Proof.Machine.execUnrecDB s
  | .unrecDD => Sys2Proof.Machine.execUnrecDD s
  | .unrecE3 => Sys2Proof.Machine.execUnrecE3 s
  | .unrecE4 => Sys2Proof.Machine.execUnrecE4 s
  | .unrecEB => Sys2Proof.Machine.execUnrecEB s
  | .unrecEC => Sys2Proof.Machine.execUnrecEC s
  | .unrecED => Sys2Proof.Machine.execUnrecED s
  | .unrecF4 => Sys2Proof.Machine.execUnrecF4 s
  | .unrecFC => Sys2Proof.Machine.execUnrecFC s
  | .unrecFD => Sys2Proof.Machine.execUnrecFD s
  | .ldRrNn rr nn => Sys2Proof.Machine.execLdRrNn rr nn s
  | .incRr rr => Sys2Proof.Machine.execIncRr rr s
  | .addHlRr rr => Sys2Proof.Machine.execAddHlRr rr s
  | .decRr rr => Sys2Proof.Machine.execDecRr rr s
  | .jrCcE cc e => Sys2Proof.Machine.execJrCcE cc e s
  | .retCc cc => Sys2Proof.Machine.execRetCc cc s
  | .popQq qq => Sys2Proof.Machine.execPopQq qq s
  | .jpCcNn cc nn => Sys2Proof.Machine.execJpCcNn cc nn s
  | .callCcNn cc nn => Sys2Proof.Machine.execCallCcNn cc nn s
  | .pushQq qq => Sys2Proof.Machine.execPushQq qq s
  | .incR r => Sys2Proof.Machine.execIncR r s
  | .decR r => Sys2Proof.Machine.execDecR r s
  | .ldRN r n => Sys2Proof.Machine.execLdRN r n s
  | .ldRHl r => Sys2Proof.Machine.execLdRHl r s
  | .ldHlR r => Sys2Proof.Machine.execLdHlR r s
  | .addAR r => Sys2Proof.Machine.execAddAR r s
  | .adcAR r => Sys2Proof.Machine.execAdcAR r s
  | .subR r => Sys2Proof.Machine.execSubR r s
  | .sbcAR r => Sys2Proof.Machine.execSbcAR r s
  | .andR r => Sys2Proof.Machine.execAndR r s
  | .xorR r => Sys2Proof.Machine.execXorR r s
  | .orR r => Sys2Proof.Machine.execOrR r s
  | .cpR r => Sys2Proof.Machine.execCpR r s
  | .rstT t => Sys2Proof.Machine.execRstT t s
  | .ldRR dst src => Sys2Proof.Machine.execLdRR dst src s
  | .rlcHl => Sys2Proof.Machine.execRlcHl s
  | .rrcHl => Sys2Proof.Machine.execRrcHl s
  | .rlHl => Sys2Proof.Machine.execRlHl s
  | .rrHl => Sys2Proof.Machine.execRrHl s
  | .slaHl => Sys2Proof.Machine.execSlaHl s
  | .sraHl => Sys2Proof.Machine.execSraHl s
  | .swapHl => Sys2Proof.Machine.execSwapHl s
  | .srlHl => Sys2Proof.Machine.execSrlHl s
  | .rlcR r => Sys2Proof.Machine.execRlcR r s
  | .rrcR r => Sys2Proof.Machine.execRrcR r s
  | .rlR r => Sys2Proof.Machine.execRlR r s
  | .rrR r => Sys2Proof.Machine.execRrR r s
  | .slaR r => Sys2Proof.Machine.execSlaR r s
  | .sraR r => Sys2Proof.Machine.execSraR r s
  | .swapR r => Sys2Proof.Machine.execSwapR r s
  | .srlR r => Sys2Proof.Machine.execSrlR r s
  | .bitHl b => Sys2Proof.Machine.execBitHl b s
  | .resHl b => Sys2Proof.Machine.execResHl b s
  | .setHl b => Sys2Proof.Machine.execSetHl b s
  | .bitR b r => Sys2Proof.Machine.execBitR b r s
  | .resR b r => Sys2Proof.Machine.execResR b r s
  | .setR b r => Sys2Proof.Machine.execSetR b r s

end Sys2Proof.Machine
end

