-- ==== Sys2Proof/Machine/Step.lean ====
section
/-! DEFINITION. One step of the machine (rule R350), and the state in which the next step runs a given
instruction. -/

namespace Sys2Proof.Machine

/-- Sub-step 3b onwards: fetch, decode, the instruction's rule, then the clocks and the interrupt check. -/
def State.executeStep (s : State) : Result :=
  match s.fetch with
  | .error c => .next (s.crash c)
  | .ok i =>
    match exec i s with
    | .next t => .next (t.endOfStep s.eiPending)
    | .fault f => .fault f
    | .refused r => .refused r

/-- One step from a running state, past the host boundary: the joypad poll, then the instruction or, in halt
or stop, an idle step. -/
def State.runStep (s : State) : Result :=
  let p := s.pollJoypad
  if p.halt || p.stop then .next p.idleStep else p.executeStep

/-- The step of rule R350. A terminal state has no step (rule R35). -/
def step (s : State) : Host.Outcome State Fault Refusal :=
  match s.run with
  | .crashed c => .fault (.crashed c)
  | .exited => .fault .exited
  | .running =>
    let b := s.hostBoundary
    if b.1.stopFlag then .next { b.2 with run := .exited }
    else if b.1.pauseFlag then .next b.2
    else b.2.runStep

/-- `s` with one byte placed in the array behind a bus address, whoever owns it: the load of a program from
outside the machine. Addresses with no array behind them (registers, unmapped) stay as they are. -/
def State.placeByte (s : State) (a : Word) (v : Byte) : State :=
  match s.target a with
  | some (.cart, k) =>
    if k < 0x8000 then
      { s with cart := { s.cart with
          rom := s.cart.rom.write (s.cart.romIndex k) v
          romLen := max s.cart.romLen (s.cart.romIndex k + 1) } }
    else
      { s with cart := { s.cart with cram := s.cart.cram.write (s.cart.ramIndex k) v } }
  | some (.bootRom, k) =>
    { s with boot := s.boot.map fun img =>
        { bytes := img.bytes.write k v, len := max img.len (k + 1) } }
  | some (.display, k) =>
    if k < 0xA000 then { s with ppu := { s.ppu with vram := s.ppu.vram.write (k - 0x8000) v } }
    else if k < 0xFEA0 then { s with ppu := { s.ppu with oam := s.ppu.oam.write (k - 0xFE00) v } }
    else s
  | some (.workRam, k) => { s with wram := s.wram.write (k - 0xC000) v }
  | some (.highRam, k) => { s with hram := s.hram.write (k - 0xFF80) v }
  | _ => s

/-- `s` with the bytes of an opcode-table word placed at PC, in a running machine that is in neither halt nor
stop and whose host shows no flag, so that the next step fetches and runs that instruction (log entry 13).
From `State.reset` nothing changes but the three bytes at 0x0100 of the cartridge. -/
def State.withFetchWord (s : State) (nbits w : Nat) : State :=
  let bs := tableBytes nbits w
  let t := ((s.placeByte s.regs.pc (bs.getD 0 0)).placeByte (s.regs.pc + 1) (bs.getD 1 0)).placeByte
    (s.regs.pc + 2) (bs.getD 2 0)
  { t with run := .running, halt := false, stop := false, host := { t.host with ticks := [], events := [] } }

end Sys2Proof.Machine
end

