-- ==== Sys2Proof/Machine/Construct.lean ====
section
/-! DEFINITION. Construction, the only reset (rules R84, R561 to R565, R610 to R613): the machine for any
parameters, cartridge image, boot image, initial cartridge RAM, bus map and reset state. It is no part of a
step. -/

namespace Sys2Proof.Machine

/-- What the host supplies before the first step (rule R386): the arguments of rule R9 and the first inputs. -/
structure HostSupply where
  params : Params
  cartImage : Image
  bootImage : Option Image
  /-- the initial contents of `cram` from index 0 up (rules R87, R605, R613); the rest is 0x00 -/
  cram : List Byte
  /-- BusMap, newest claim first, without the boot overlay (rules R9, R100, R101) -/
  busMap : List BusClaim := defaultUnits
  /-- ResetState (rules R9, R84, R612); none: the preset that the presence of a boot image chooses -/
  resetState : Option ResetState := none
  /-- the host's queues and flags, which no reset empties (rule R613) -/
  host : HostPort := HostPort.quiet
  deriving DecidableEq, Repr

/-- The image that a byte sequence is. -/
def Image.ofBytes (bs : List Byte) : Image := ⟨Memory.ofBytes 0 bs, bs.length⟩

/-- The initial `cram` of `n` entries: the host's bytes from index 0 up, an entry of MBC2 holding 4 bits (rule
R564). -/
def initialRam (kind : MbcKind) (n : Nat) (bs : List Byte) : Memory :=
  match kind with
  | .mbc2 => Memory.ofBytes 0 ((bs.take n).map fun v => v &&& 0x0F)
  | _ => Memory.ofBytes 0 (bs.take n)

/-- The preset of `ResetState` that the presence of a boot image chooses (rules R85, R86). -/
def ResetState.preset (params : Params) (boot : Option Image) : ResetState :=
  match boot with
  | some _ => ResetState.presetBoot params
  | none => ResetState.presetNoBoot params

/-- The range validation of `map` (rule R91). -/
def BusClaim.valid (c : BusClaim) : Bool := decide (c.lo ≤ c.hi ∧ c.hi ≤ 65535)

/-- The ResetState a host supplies, or the preset. -/
def HostSupply.initial (h : HostSupply) : ResetState :=
  h.resetState.getD (ResetState.preset h.params h.bootImage)

/-- Construction (rule R611): the header is read and may be refused with `MalformedCartridge`; a BusMap with an
invalid range is refused by `map` with `OutOfRange` (rule R91); else every unit is created with the ResetState,
the bus map installed, and the machine runs. -/
def construct (h : HostSupply) : Except Fatal State :=
  match loadHeader h.cartImage with
  | .error c => .error c
  | .ok (kind, n) =>
    if h.busMap.all BusClaim.valid then
      .ok (State.create h.params h.busMap h.bootImage ⟨kind, h.cartImage, initialRam kind n h.cram, n⟩ h.host
        h.initial)
    else .error .outOfRange

/-- The persisted copy of `cram` that a host keeps and may feed to a new instance (rules R605, R613). -/
def State.savedRam (s : State) : List Byte := (List.range s.cart.cramLen).map s.cart.cram.read

/-- A reset request (rules R610, R613): the machine is discarded and a new one constructed; the host's queues and
flags go on, and the outputs of the discarded instance stay what they are. -/
def State.restart (s : State) (h : HostSupply) : Except Fatal State := construct { h with host := s.host }

end Sys2Proof.Machine
end

