-- ==== Sys2Proof/Safety.lean ====
section
/-! DEFINITION. What counts as a sound state and a safe run, and the terms the statements use. A crashed
state holds `any value` (rule R356), so every property here is asked of states that have not crashed. -/

namespace Sys2Proof.Machine

/-! ## Terms for the statements -/

/-- The state has not crashed. -/
def State.Alive (s : State) : Prop := ∀ c, s.run ≠ .crashed c

/-- F holds these four flags in bits 7 to 4 and 0 in bits 3 to 0 (rule R22). -/
abbrev FlagsAre (f : Byte) (z n h c : Bool) : Prop :=
  f.getLsbD 7 = z ∧ f.getLsbD 6 = n ∧ f.getLsbD 5 = h ∧ f.getLsbD 4 = c ∧ f &&& 0x0F = 0

/-- The next step executes the instruction at PC: the machine runs, is not suspended, and the host shows no
flag and no button. -/
def State.Quiet (s : State) : Prop :=
  s.run = .running ∧ s.halt = false ∧ s.stop = false ∧ s.host.ticks = [] ∧ s.host.events = []

/-- The next step goes past the host boundary: the machine runs, and the boundary's entry, if there is one, shows
neither flag (rules R387, R388). -/
def State.PastBoundary (s : State) : Prop :=
  s.run = .running ∧ ∀ tick rest, s.host.ticks = tick :: rest → tick.stopFlag = false ∧ tick.pauseFlag = false

/-- The state that sub-step 3 of rule R350 starts from, past the boundary: the boundary's entry taken and its arrivals
queued (log entry 8), and at most one event consumed. -/
def State.afterInput (s : State) : State :=
  State.pollJoypad
    (match s.host.ticks with
    | [] => s
    | tick :: rest => { s with host := { s.host with ticks := rest, events := s.host.events ++ tick.arrivals } })

/-- The bytes `bs` can be read at ascending addresses from `a`. -/
def State.BytesAt (s : State) : Word → List Byte → Prop
  | _, [] => True
  | a, v :: rest => s.readByte a = .ok v ∧ s.BytesAt (a + 1) rest

/-- Address `a` reaches an element of a byte array with no access side effect: work RAM, high RAM, video RAM or
the sprite table (rules R106, R431). -/
def State.PlainAt (s : State) (a : Word) : Prop :=
  ∃ k, (s.target a = some (.workRam, k) ∧ 0xC000 ≤ k ∧ k < 0xE000) ∨
    (s.target a = some (.highRam, k) ∧ 0xFF80 ≤ k ∧ k < 0xFFFF) ∨
    (s.target a = some (.display, k) ∧ (0x8000 ≤ k ∧ k < 0xA000 ∨ 0xFE00 ≤ k ∧ k < 0xFEA0))

/-- Between `s` and `t` the byte read at `a` becomes `v`, every address that reaches another byte reads as before
(under a map with a mirror two addresses can reach one byte), and nothing but the plain arrays, the CPU
registers and the cycle report may differ. -/
def State.StoredOnly (s t : State) (a : Word) (v : Byte) : Prop :=
  (∀ b, s.target b = s.target a → t.readByte b = .ok v) ∧
  (∀ b, s.target b ≠ s.target a → t.readByte b = s.readByte b) ∧
  t = { s with
    regs := t.regs, cyc := t.cyc, wram := t.wram, hram := t.hram
    ppu := { s.ppu with vram := t.ppu.vram, oam := t.ppu.oam } }

/-! ### Shapes of an instruction's result -/

/-- The bytes of `i` in ascending address order, as numbers. -/
abbrev BytesAre (i : Instr) (bytes : List Nat) : Prop := (encode i).map BitVec.toNat = bytes

/-- From `s` to `t` only CPU registers and the cycle report differ, with F, SP and PC as given. -/
def State.CpuStep (s t : State) (f : Byte) (sp pc : Word) (cycles : Nat) : Prop :=
  t = { s with regs := { t.regs with f := f, sp := sp, pc := pc }, cyc := cycles }

/-- Of the seven coded registers only `dst` differs, and it holds `v`. -/
def State.OnlyReg (s t : State) (dst : Reg8) (v : Byte) : Prop :=
  t.reg dst = v ∧ ∀ q, q ≠ dst → t.reg q = s.reg q

/-- Of A and the pairs BC, DE, HL, SP only `p` differs, and it holds `v`. -/
def State.OnlyPair (s t : State) (p : PairRR) (v : Word) : Prop :=
  t.rr p = v ∧ (∀ q, q ≠ p → t.rr q = s.rr q) ∧ t.regs.a = s.regs.a

/-- `i` answers a next state that has crashed with `c`. -/
def CrashesWith (i : Instr) (s : State) (c : Fatal) : Prop := ∃ t, exec i s = .next t ∧ t.run = .crashed c

/-- `i` puts the byte at `a` into `dst` and ends with PC + `len` and the given cycles, or crashes where the read
raises. -/
def LoadsInto (i : Instr) (s : State) (dst : Reg8) (a : Word) (len cycles : Nat) : Prop :=
  (∀ v, s.readByte a = .ok v → ∃ t, exec i s = .next t ∧ s.OnlyReg t dst v ∧
    s.CpuStep t s.regs.f s.regs.sp (s.regs.pc + BitVec.ofNat 16 len) cycles) ∧
  (∀ c, s.readByte a = .error c → CrashesWith i s c)

/-- `i` writes `v` to `a` and ends, no register but PC changed, or crashes where the write raises. -/
def StoresTo (i : Instr) (s : State) (a : Word) (v : Byte) (len cycles : Nat) : Prop :=
  (∀ w, s.writeByte a v = .done () w →
    exec i s =
      .next { w with regs := { s.regs with pc := s.regs.pc + BitVec.ofNat 16 len }, cyc := cycles }) ∧
  (∀ c w, s.writeByte a v = .fatal c w → CrashesWith i s c)

/-- `i` leaves `a` in A and the given flags in F, and changes nothing else but PC. -/
def GivesA (i : Instr) (s : State) (a : Byte) (z n h c : Bool) (len cycles : Nat) : Prop :=
  ∃ f, FlagsAre f z n h c ∧
    exec i s =
      .next { s with
        regs := { s.regs with a := a, f := f, pc := s.regs.pc + BitVec.ofNat 16 len }, cyc := cycles }

/-- `i` leaves `v` in `dst` and the given flags in F, and changes nothing else but PC. -/
def GivesReg (i : Instr) (s : State) (dst : Reg8) (v : Byte) (z n h c : Bool) (len cycles : Nat) : Prop :=
  ∃ t f, exec i s = .next t ∧ FlagsAre f z n h c ∧ s.OnlyReg t dst v ∧
    s.CpuStep t f s.regs.sp (s.regs.pc + BitVec.ofNat 16 len) cycles

/-- `i` reads `v` at HL, writes `g v` there, leaves flags that `fl v` describes, and changes no other register
but PC; it crashes where the read or the write raises. -/
def ModifiesHl (i : Instr) (s : State) (g : Byte → Byte) (fl : Byte → Byte → Prop) (len cycles : Nat) : Prop :=
  (∀ v w, s.readByte s.hl = .ok v → s.writeByte s.hl (g v) = .done () w →
    ∃ f, fl v f ∧
      exec i s =
        .next { w with
          regs := { s.regs with f := f, pc := s.regs.pc + BitVec.ofNat 16 len }, cyc := cycles }) ∧
  (∀ c, s.readByte s.hl = .error c → CrashesWith i s c) ∧
  (∀ v c w, s.readByte s.hl = .ok v → s.writeByte s.hl (g v) = .fatal c w → CrashesWith i s c)

/-- `i` pushes `v` (high byte at SP - 1, then low byte at SP - 2) and ends at `pc`, or crashes where a write
raises. -/
def PushesThen (i : Instr) (s : State) (v pc : Word) (cycles : Nat) : Prop :=
  (∀ u w, s.writeByte (s.regs.sp - 1) (hiByte v) = .done () u →
    u.writeByte (s.regs.sp - 2) (loByte v) = .done () w →
    exec i s = .next { w with regs := { s.regs with sp := s.regs.sp - 2, pc := pc }, cyc := cycles }) ∧
  (∀ c u, s.writeByte (s.regs.sp - 1) (hiByte v) = .fatal c u → CrashesWith i s c) ∧
  (∀ c u w, s.writeByte (s.regs.sp - 1) (hiByte v) = .done () u →
    u.writeByte (s.regs.sp - 2) (loByte v) = .fatal c w → CrashesWith i s c)

/-- `i` pops a word (low byte from SP, high byte from SP + 1) into PC, with the given master-enable after it, or
crashes where a read raises. -/
def PopsPc (i : Instr) (s : State) (ime : Bool) (cycles : Nat) : Prop :=
  (∀ lo hi, s.readByte s.regs.sp = .ok lo → s.readByte (s.regs.sp + 1) = .ok hi →
    exec i s =
      .next { s with regs := { s.regs with sp := s.regs.sp + 2, pc := hi ++ lo }, ime := ime, cyc := cycles }) ∧
  (∀ c, s.readByte s.regs.sp = .error c → CrashesWith i s c) ∧
  (∀ lo c, s.readByte s.regs.sp = .ok lo → s.readByte (s.regs.sp + 1) = .error c → CrashesWith i s c)

/-- `i` goes to `pc` and changes nothing else. -/
def GoesTo (i : Instr) (s : State) (pc : Word) (cycles : Nat) : Prop :=
  exec i s = .next { s with regs := { s.regs with pc := pc }, cyc := cycles }

/-! ### Control transfers -/

/-- The condition of a conditional transfer. -/
def conditionOf : Instr → Option Cond
  | .jrCcE cc _ | .jpCcNn cc _ | .callCcNn cc _ | .retCc cc => some cc
  | _ => none

/-- The control transfers of rules R311 to R322. -/
def isTransfer : Instr → Bool
  | .jpNn _ | .jpCcNn _ _ | .jpHl | .jrE _ | .jrCcE _ _ | .callNn _ | .callCcNn _ _ | .ret | .retCc _ | .reti
  | .rstT _ => true
  | _ => false

/-! ### Where an instruction stores -/

/-- The addresses an instruction stores a byte to, in the order of the writes, from the expressions its
meaning uses. -/
def storeAddresses (i : Instr) (s : State) : List Word :=
  match i with
  | .ldBcA => [s.bc]
  | .ldDeA => [s.de]
  | .ldHliA | .ldHldA | .ldHlN _ | .ldHlR _ | .incHlMem | .decHlMem | .rlcHl | .rrcHl | .rlHl | .rrHl | .slaHl
  | .sraHl | .swapHl | .srlHl | .resHl _ | .setHl _ => [s.hl]
  | .ldNnA nn => [nn]
  | .ldhNA n => [highPage n]
  | .ldhCA => [s.highPageC]
  | .ldNnSp nn => [nn, nn + 1]
  | .pushQq _ | .callNn _ | .rstT _ => [s.regs.sp - 1, s.regs.sp - 2]
  | .callCcNn cc _ => if s.holds cc then [s.regs.sp - 1, s.regs.sp - 2] else []
  | .prefixCb op2 => if op2.toNat % 8 = 6 ∧ op2.toNat / 64 ≠ 1 then [s.hl] else []
  | .nop | .rlca | .rrca | .rla | .rra | .ldABc | .ldADe | .ldAHli | .ldAHld | .stop _ | .jrE _ | .daa | .cpl
  | .scf | .ccf | .halt | .addAHl | .adcAHl | .subHl | .sbcAHl | .andHl | .xorHl | .orHl | .cpHl | .popAf
  | .jpNn _ | .addAN _ | .adcAN _ | .subN _ | .sbcAN _ | .andN _ | .xorN _ | .orN _ | .cpN _ | .ret | .reti
  | .ldhAN _ | .ldhAC | .addSpE _ | .jpHl | .ldANn _ | .di | .ei | .ldHlSpE _ | .ldSpHl | .unrecD3 | .unrecDB
  | .unrecDD | .unrecE3 | .unrecE4 | .unrecEB | .unrecEC | .unrecED | .unrecF4 | .unrecFC | .unrecFD
  | .ldRrNn _ _ | .incRr _ | .addHlRr _ | .decRr _ | .jrCcE _ _ | .retCc _ | .popQq _ | .jpCcNn _ _ | .incR _
  | .decR _ | .ldRN _ _ | .ldRHl _ | .addAR _ | .adcAR _ | .subR _ | .sbcAR _ | .andR _ | .xorR _ | .orR _
  | .cpR _ | .ldRR _ _ | .rlcR _ | .rrcR _ | .rlR _ | .rrR _ | .slaR _ | .sraR _ | .swapR _ | .srlR _
  | .bitHl _ | .bitR _ _ | .resR _ _ | .setR _ _ => []

/-! ### What the display shows (rules R54, R462 to R468) -/

/-- The shade a palette register gives code `k`: its bits 2k+1 and 2k (rule R54). -/
def shadeOf (pal : Byte) (k : Nat) : Shade := BitVec.ofNat 2 (pal.toNat / 4 ^ k)

/-- The colour code at bit `b` of the tile row whose two bytes are those at `i` and `i + 1` of video RAM, which
stands at 0x8000 (rules R462, R463). -/
def codeAt (vram : Memory) (i b : Nat) : Nat :=
  2 * ((vram.read (i + 1)).getLsbD b).toNat + ((vram.read i).getLsbD b).toNat

/-- Pixel (x, y) of a tile map, at 0x9C00 or 0x9800 (rules R463 to R466). A tile id is signed about 0x9000 with LCDC
bit 4 clear, so that id 128 and up lie at the same place in both modes. -/
def mapPixel (p : Ppu) (high : Bool) (x y : Nat) : Shade :=
  let id := (p.vram.read ((if high then 0x1C00 else 0x1800) + 32 * (y / 8) + x / 8)).toNat
  let tile := if p.lcdc.getLsbD 4 = true ∨ 128 ≤ id then 16 * id else 0x1000 + 16 * id
  shadeOf p.bgp (codeAt p.vram (tile + 2 * (y % 8)) (7 - x % 8))

/-- The background at column `c` of line LY (rule R464). -/
def bgPixel (p : Ppu) (c : Nat) : Shade :=
  if p.lcdc.getLsbD 0 then
    mapPixel p (p.lcdc.getLsbD 3) ((c + p.scx.toNat) % 256) ((p.ly + p.scy.toNat) % 256)
  else 0

/-- The window at column `c` of line LY, or transparent outside it (rule R465). -/
def winPixel (p : Ppu) (c : Nat) : Dot :=
  if p.lcdc.getLsbD 5 = true ∧ p.wy.toNat ≤ p.ly ∧ p.wx.toNat ≤ c + 7 then
    some (mapPixel p (p.lcdc.getLsbD 6) (c + 7 - p.wx.toNat) (p.ly - p.wy.toNat))
  else none

/-- Bit 7 of a sprite entry's flags: it belongs to the layer below the background (rule R55). -/
def spriteIsBelow (p : Ppu) (i : Nat) : Bool := (p.oam.read (4 * i + 3)).getLsbD 7

/-- What sprite entry `i` puts at column `x` of line LY: transparent off its 8 columns, for code 0, and where the line
is not one of its rows any more (rule R462; log entry 10 for an entry moved off the line). -/
def spritePixel (p : Ppu) (i x : Nat) : Dot :=
  let h := if p.lcdc.getLsbD 2 then 16 else 8
  let top := (p.oam.read (4 * i)).toNat
  let left := (p.oam.read (4 * i + 1)).toNat
  let id := (p.oam.read (4 * i + 2)).toNat
  let flags := p.oam.read (4 * i + 3)
  let down := p.ly + 16 - top
  let row := if flags.getLsbD 6 then h - 1 - down else down
  let tile := if p.lcdc.getLsbD 2 then id / 2 * 2 + row / 8 else id
  let px := x + 8 - left
  let k := codeAt p.vram (16 * tile + 2 * (row % 8)) (if flags.getLsbD 5 then px else 7 - px)
  if top ≤ p.ly + 16 ∧ p.ly + 16 < top + h ∧ left ≤ x + 8 ∧ x < left ∧ k ≠ 0 then
    some (shadeOf (if flags.getLsbD 4 then p.obp1 else p.obp0) k)
  else none

/-- What the sprites `q`, the earlier one winning a shared pixel, put at column `x` of one of the two layers. -/
def spriteLayerPixel (p : Ppu) (below : Bool) (q : List Nat) (x : Nat) : Dot :=
  q.findSome? fun i => if spriteIsBelow p i = below then spritePixel p i x else none

/-- The composition of one pixel (rule R468): the sprite above, else window or background unless that is shade 0 and
a sprite below shows. -/
def shownPixel (above below win : Dot) (bg : Shade) : Shade :=
  let g := win.getD bg
  above.getD (if g = 0 then below.getD g else g)

/-- The frame's value at row `y`, column `x`. -/
def Frame.pixel (f : Frame) (y x : Nat) : Option Shade := f[y]?.bind fun row => row[x]?

/-! ## Ranges of the units (rules R48, R61, R62, R74 to R81) -/

/-- Rule R48. -/
def Timer.InRange (t : Timer) : Prop := t.divAcc < 256 ∧ t.timaAcc < timaThreshold t.tac

/-- Rules R61, R62, R472. -/
structure Ppu.InRange (p : Ppu) : Prop where
  ly : p.ly < 154
  col : p.col ≤ 160
  vblank : p.mode = .vblank ↔ 144 ≤ p.ly
  queueLength : p.queue.length ≤ 10
  queueEntries : ∀ i ∈ p.queue, i < 40
  nextSprite : p.nextSprite ≤ p.queue.length
  whenOff : p.on = false →
    p.mode = .hblank ∧ p.ly = 0 ∧ p.col = 0 ∧ p.acc = 0 ∧ p.coin = false ∧ p.statLine = false

/-- Rules R64 to R68 (bits never stored) and R74 to R76. -/
structure Apu.InRange (u : Apu) : Prop where
  lengths : u.ch1.length ≤ 64 ∧ u.ch2.length ≤ 64 ∧ u.ch3.length ≤ 256 ∧ u.ch4.length ≤ 64
  volumes : u.ch1.volume ≤ 15 ∧ u.ch2.volume ≤ 15 ∧ u.ch4.volume ≤ 15
  envCounters : u.ch1.envCounter ≤ 7 ∧ u.ch2.envCounter ≤ 7 ∧ u.ch4.envCounter ≤ 7
  positions : u.ch1.dutyPos < 8 ∧ u.ch2.dutyPos < 8 ∧ u.ch3.wavePos < 32 ∧ u.fsStep < 8
  sweep : u.sweep.shadow ≤ 2047 ∧ u.sweep.counter ≤ 7
  triggers : u.regs.nr14.getLsbD 7 = false ∧ u.regs.nr24.getLsbD 7 = false ∧
    u.regs.nr34.getLsbD 7 = false ∧ u.regs.nr44.getLsbD 7 = false
  status : u.regs.nr52 &&& 0x0F = 0

/-- The bits a clock register has (rules R79, R585). -/
def RtcRegs.InRange (r : RtcRegs) : Prop :=
  r.s &&& 0xC0 = 0 ∧ r.m &&& 0xC0 = 0 ∧ r.h &&& 0xE0 = 0 ∧ r.dh &&& 0x3E = 0

/-- Rules R78, R79, R81, and what rules R570 and R578 say never changes. -/
structure Cart.InRange (c : Cart) (clockHz : Nat) : Prop where
  banks : c.romBank ≤ 127 ∧ c.ramBank ≤ 3 ∧ c.bank2 ≤ 3
  selected : ∀ v, c.rtcSel = .ramBank v → v ≤ 3
  null : c.kind = .null → c.romBank = 1 ∧ c.ramBank = 0
  mbc2 : c.kind = .mbc2 → c.ramBank = 0
  live : c.rtc.InRange
  snapshot : c.latched.InRange
  second : 0 < clockHz → c.rtcAcc < clockHz

/-! ## Sound states -/

/-- Rule R22: "the bottom 4 bits are always zero". -/
def State.FlagNibbleZero (s : State) : Prop := s.regs.f &&& 0x0F = 0

/-- Every byte array is in canonical form. -/
structure State.MemoriesCanonical (s : State) : Prop where
  wram : s.wram.wf = true
  hram : s.hram.wf = true
  vram : s.ppu.vram.wf = true
  oam : s.ppu.oam.wf = true
  wave : s.apu.wave.wf = true
  rom : s.cart.rom.wf = true
  cram : s.cart.cram.wf = true
  boot : ∀ img, s.boot = some img → img.bytes.wf = true

/-- Every unit is within its ranges. -/
structure State.UnitsInRange (s : State) : Prop where
  timer : s.timer.InRange
  display : s.ppu.InRange
  sound : s.apu.InRange
  cart : s.cart.InRange s.params.clockHz
  /-- rule R76: `fs_acc` is below FS_PERIOD, 8192 at the default CLOCK_HZ -/
  sequencer : 512 ≤ s.params.clockHz → s.apu.fsAcc < s.params.clockHz / 512

/-- Ownership is the BusMap `m`, changed at most by the BOOTOFF write (rules R101, R102, R601). -/
def State.MapIs (s : State) (m : List BusClaim) : Prop := s.busMap = busTable m s.boot.isSome s.bootMapped

/-- Ownership is the default map (rule R100), changed at most by the BOOTOFF write. -/
def State.MapSound (s : State) : Prop := s.MapIs defaultUnits

/-- A sound state. -/
structure State.Sound (s : State) : Prop where
  flags : s.FlagNibbleZero
  memories : s.MemoriesCanonical
  units : s.UnitsInRange
  map : s.MapSound

/-! ## Safe runs -/

/-- The state after `n` steps, while each step answers a next state. -/
def stepsFrom (s : State) : Nat → Option State
  | 0 => some s
  | n + 1 =>
    match step s with
    | .next t => stepsFrom t n
    | _ => none

/-- The first `n` steps from `s` end in no crash. -/
def SafeFor (s : State) (n : Nat) : Prop := ∃ t, stepsFrom s n = some t ∧ t.Alive

end Sys2Proof.Machine
end

