-- ==== Sys2Proof/Certificates/Slice0/Obligations.lean ====
section
/-! DEFINITION. The statements for the provers. -/

open Sys2Proof Sys2Proof.Machine

/-! ## Encoding and the step -/

/-- Rule R350, sub-steps 2 to 5, past the host boundary, from the state the step's inputs leave. Where the bytes at PC
decode to `i`, the step is `exec i` followed by an enable on its way coming nearer (R334; that it is a counter is
log entry 7), the clocks by the reported cycles, the wake check and one dispatch; after a crash none of these
(R356). Where a byte of the instruction cannot be fetched the step crashes with the cause of the read (R352, R353).
The clocks: timer, display, sound unit and cartridge clock advance in that order, each with the flags and outputs
the one before it leaves (R402, R435, R500, R592). -/
def Obligations.StepRunsDecodedInstruction : Prop :=
  (∀ (s : State) (i : Instr) (bs : List Byte), s.PastBoundary →
    let p := s.afterInput
    p.halt = false → p.stop = false → p.BytesAt p.regs.pc bs → decode bs = .ok (i, []) →
    ∃ t, exec i p = .next t ∧
      (p.eiPending = none → t.settleEnable p.eiPending = t) ∧
      (t.run = .running →
        step s = .next ((t.settleEnable p.eiPending).advanceClocks t.cyc).wake.dispatch) ∧
      (t.run ≠ .running → step s = .next t)) ∧
  (∀ (s : State) (c : Fatal), s.PastBoundary →
    let p := s.afterInput
    p.halt = false → p.stop = false →
    (p.readByte p.regs.pc = .error c → ∃ t, step s = .next t ∧ t.run = .crashed c) ∧
    (∀ (op : Byte) (bs : List Byte), p.BytesAt p.regs.pc (op :: bs) → bs.length + 1 < opLength op →
      p.readByte (p.regs.pc + BitVec.ofNat 16 (bs.length + 1)) = .error c →
      ∃ t, step s = .next t ∧ t.run = .crashed c)) ∧
  (∀ (s : State) (n : Nat),
    let timer := TimerIo.advance ⟨s.timer, s.ifReg⟩ n
    let display := PpuIo.advance s.params.spritePick ⟨s.ppu, timer.irq, s.out.frames⟩ n
    let sound := ApuIo.advance ⟨s.apu, s.out.audio, s.host⟩ s.params.clockHz n
    s.advanceClocks n = { s with
      timer := timer.timer, ppu := display.ppu, ifReg := display.irq, apu := sound.apu, host := sound.host
      cart := s.cart.rtcAdvance s.params.clockHz n, out := { frames := display.frames, audio := sound.audio } })

/-- Rules R141, R148, R150: every well-formed instruction is read back from its bytes, whatever follows them. -/
def Obligations.DecodeOfEncodeReturnsInstruction : Prop :=
  ∀ (i : Instr) (rest : List Byte), i.wellFormed = true → decode (encode i ++ rest) = .ok (i, rest)

/-- Rules R141, R151 to R153: any three bytes start with a well-formed instruction, whose encoding they are; the
number of bytes it takes follows from byte 0. -/
def Obligations.DecodeCoversEveryByteSequence : Prop :=
  ∀ (op b1 b2 : Byte), ∃ (i : Instr) (rest : List Byte),
    decode [op, b1, b2] = .ok (i, rest) ∧ i.wellFormed = true ∧ encode i ++ rest = [op, b1, b2] ∧
    (encode i).length = opLength op

/-- Words written out bit by bit from the encodings of rules R171, R200, R218, R265, R280, R297, R315, R322, R332. -/
def Obligations.WrittenWordsDecode : Prop :=
  decode [0b01111000] = .ok (.ldRR .a .b, []) ∧
  decode [0b00110001, 0xFE, 0xDF] = .ok (.ldRrNn .sp 0xDFFE, []) ∧
  decode [0b10000110] = .ok (.addAHl, []) ∧
  decode [0b00001001] = .ok (.addHlRr .bc, []) ∧
  decode [0b11001011, 0b00000000] = .ok (.rlcR .b, []) ∧
  decode [0b11001011, 0b01000110] = .ok (.bitHl 0, []) ∧
  decode [0b00100000, 0xFC] = .ok (.jrCcE .nz 0xFC, []) ∧
  decode [0b11101111] = .ok (.rstT 5, []) ∧
  decode [0b00010000, 0x00] = .ok (.stop 0x00, [])

/-! ## Loads -/

/-- Rules R171, R172: `x[y] <- x[z]` and `x[y] <- imm8`. Rules R173, R176, R177, R180, R182, R184: the byte read goes
to the register; the read may raise. Rules R187, R189: A is loaded from HL, then HL moves by one modulo 65536. -/
def Obligations.LoadByteResults : Prop :=
  ∀ (s : State),
    (∀ dst src : Reg8, BytesAre (.ldRR dst src) [64 + 8 * dst.code.toNat + src.code.toNat] ∧
      ∃ t, exec (.ldRR dst src) s = .next t ∧ s.OnlyReg t dst (s.reg src) ∧
        s.CpuStep t s.regs.f s.regs.sp (s.regs.pc + 1) 4) ∧
    (∀ (r : Reg8) (n : Byte), BytesAre (.ldRN r n) [6 + 8 * r.code.toNat, n.toNat] ∧
      ∃ t, exec (.ldRN r n) s = .next t ∧ s.OnlyReg t r n ∧
        s.CpuStep t s.regs.f s.regs.sp (s.regs.pc + 2) 8) ∧
    (∀ r : Reg8, BytesAre (.ldRHl r) [70 + 8 * r.code.toNat] ∧
      LoadsInto (.ldRHl r) s r (s.regs.h ++ s.regs.l) 1 8) ∧
    (BytesAre .ldABc [0x0A] ∧ LoadsInto .ldABc s .a (s.regs.b ++ s.regs.c) 1 8) ∧
    (BytesAre .ldADe [0x1A] ∧ LoadsInto .ldADe s .a (s.regs.d ++ s.regs.e) 1 8) ∧
    (∀ nn : Word, BytesAre (.ldANn nn) [0xFA, nn.toNat % 256, nn.toNat / 256] ∧
      LoadsInto (.ldANn nn) s .a nn 3 16) ∧
    (∀ n : Byte, BytesAre (.ldhAN n) [0xF0, n.toNat] ∧
      LoadsInto (.ldhAN n) s .a (BitVec.ofNat 16 (0xFF00 + n.toNat)) 2 12) ∧
    (BytesAre .ldhAC [0xF2] ∧ LoadsInto .ldhAC s .a (BitVec.ofNat 16 (0xFF00 + s.regs.c.toNat)) 1 8) ∧
    BytesAre .ldAHli [0x2A] ∧ BytesAre .ldAHld [0x3A] ∧
    (∀ v, s.readByte s.hl = .ok v →
      (∃ t, exec .ldAHli s = .next t ∧ t.regs.a = v ∧ t.hl = s.hl + 1 ∧ t.bc = s.bc ∧ t.de = s.de ∧
        s.CpuStep t s.regs.f s.regs.sp (s.regs.pc + 1) 8) ∧
      (∃ t, exec .ldAHld s = .next t ∧ t.regs.a = v ∧ t.hl = s.hl - 1 ∧ t.bc = s.bc ∧ t.de = s.de ∧
        s.CpuStep t s.regs.f s.regs.sp (s.regs.pc + 1) 8)) ∧
    (∀ c, s.readByte s.hl = .error c → CrashesWith .ldAHli s c ∧ CrashesWith .ldAHld s c)

/-- Rules R174, R175, R178, R179, R181, R183, R185: one byte is written; no register but PC changes.
Rules R186, R188: A is written at HL, then HL moves by one modulo 65536. -/
def Obligations.StoreByteResults : Prop :=
  ∀ (s : State),
    (∀ r : Reg8, BytesAre (.ldHlR r) [112 + r.code.toNat] ∧ StoresTo (.ldHlR r) s s.hl (s.reg r) 1 8) ∧
    (∀ n : Byte, BytesAre (.ldHlN n) [0x36, n.toNat] ∧ StoresTo (.ldHlN n) s s.hl n 2 12) ∧
    (BytesAre .ldBcA [0x02] ∧ StoresTo .ldBcA s s.bc s.regs.a 1 8) ∧
    (BytesAre .ldDeA [0x12] ∧ StoresTo .ldDeA s s.de s.regs.a 1 8) ∧
    (∀ nn : Word, BytesAre (.ldNnA nn) [0xEA, nn.toNat % 256, nn.toNat / 256] ∧
      StoresTo (.ldNnA nn) s nn s.regs.a 3 16) ∧
    (∀ n : Byte, BytesAre (.ldhNA n) [0xE0, n.toNat] ∧
      StoresTo (.ldhNA n) s (BitVec.ofNat 16 (0xFF00 + n.toNat)) s.regs.a 2 12) ∧
    (BytesAre .ldhCA [0xE2] ∧
      StoresTo .ldhCA s (BitVec.ofNat 16 (0xFF00 + s.regs.c.toNat)) s.regs.a 1 8) ∧
    BytesAre .ldHliA [0x22] ∧ BytesAre .ldHldA [0x32] ∧
    (∀ w, s.writeByte s.hl s.regs.a = .done () w →
      exec .ldHliA s =
        .next { w with
          regs := { s.regs with h := hiByte (s.hl + 1), l := loByte (s.hl + 1), pc := s.regs.pc + 1 }
          cyc := 8 } ∧
      exec .ldHldA s =
        .next { w with
          regs := { s.regs with h := hiByte (s.hl - 1), l := loByte (s.hl - 1), pc := s.regs.pc + 1 }
          cyc := 8 }) ∧
    (∀ c w, s.writeByte s.hl s.regs.a = .fatal c w → CrashesWith .ldHliA s c ∧ CrashesWith .ldHldA s c)

/-- Rules R200, R202, R266, R267: a pair is loaded, SP is loaded from HL, a pair counts up or down modulo 65536
with no flag changed. -/
def Obligations.PairRegisterResults : Prop :=
  ∀ (s : State),
    (∀ (p : PairRR) (nn : Word),
      BytesAre (.ldRrNn p nn) [1 + 16 * p.code.toNat, nn.toNat % 256, nn.toNat / 256] ∧
      ∃ t, exec (.ldRrNn p nn) s = .next t ∧ s.OnlyPair t p nn ∧
        s.CpuStep t s.regs.f t.regs.sp (s.regs.pc + 3) 12) ∧
    (BytesAre .ldSpHl [0xF9] ∧
      exec .ldSpHl s =
        .next { s with
          regs := { s.regs with sp := s.regs.h ++ s.regs.l, pc := s.regs.pc + 1 }, cyc := 8 }) ∧
    (∀ p : PairRR, BytesAre (.incRr p) [3 + 16 * p.code.toNat] ∧
      ∃ t, exec (.incRr p) s = .next t ∧ s.OnlyPair t p (s.rr p + 1) ∧
        s.CpuStep t s.regs.f t.regs.sp (s.regs.pc + 1) 8) ∧
    (∀ p : PairRR, BytesAre (.decRr p) [11 + 16 * p.code.toNat] ∧
      ∃ t, exec (.decRr p) s = .next t ∧ s.OnlyPair t p (s.rr p - 1) ∧
        s.CpuStep t s.regs.f t.regs.sp (s.regs.pc + 1) 8)

/-- Rule R201: SP's low byte is written at `nn`, then its high byte at `nn + 1` modulo 65536. -/
def Obligations.StoreStackPointerResult : Prop :=
  ∀ (s : State) (nn : Word),
    BytesAre (.ldNnSp nn) [0x08, nn.toNat % 256, nn.toNat / 256] ∧
    (∀ u w, s.writeByte nn (BitVec.ofNat 8 (s.regs.sp.toNat % 256)) = .done () u →
      u.writeByte (nn + 1) (BitVec.ofNat 8 (s.regs.sp.toNat / 256)) = .done () w →
      exec (.ldNnSp nn) s = .next { w with regs := { s.regs with pc := s.regs.pc + 3 }, cyc := 20 }) ∧
    (∀ c u, s.writeByte nn (BitVec.ofNat 8 (s.regs.sp.toNat % 256)) = .fatal c u →
      CrashesWith (.ldNnSp nn) s c) ∧
    (∀ c u w, s.writeByte nn (BitVec.ofNat 8 (s.regs.sp.toNat % 256)) = .done () u →
      u.writeByte (nn + 1) (BitVec.ofNat 8 (s.regs.sp.toNat / 256)) = .fatal c w →
      CrashesWith (.ldNnSp nn) s c)

/-- Rule R265: HL plus a pair modulo 65536; Z unchanged, N cleared, H from the low 12 bits, C from all 16. Rules
R203, R268: SP plus a signed displacement, to HL or to SP; Z and N cleared, H and C by the value of
SP_E_FLAGS. -/
def Obligations.SixteenBitAdditionResults : Prop :=
  ∀ (s : State) (e : Byte),
    let sum : Word := BitVec.ofInt 16 ((s.regs.sp.toNat : Int) + e.toInt)
    let wide := if e.toNat < 128 then e.toNat else e.toNat + 0xFF00
    let h :=
      match s.params.spEFlags with
      | .byte => decide (0xF < s.regs.sp.toNat % 16 + e.toNat % 16)
      | .word => decide (0xFFF < s.regs.sp.toNat % 4096 + wide % 4096)
    let c :=
      match s.params.spEFlags with
      | .byte => decide (0xFF < s.regs.sp.toNat % 256 + e.toNat)
      | .word => decide (0xFFFF < s.regs.sp.toNat + wide)
    BytesAre (.ldHlSpE e) [0xF8, e.toNat] ∧ BytesAre (.addSpE e) [0xE8, e.toNat] ∧
    (∃ f, FlagsAre f false false h c ∧
      exec (.ldHlSpE e) s =
        .next { s with
          regs := { s.regs with h := hiByte sum, l := loByte sum, f := f, pc := s.regs.pc + 2 }, cyc := 12 }) ∧
    (∃ f, FlagsAre f false false h c ∧
      exec (.addSpE e) s =
        .next { s with regs := { s.regs with sp := sum, f := f, pc := s.regs.pc + 2 }, cyc := 16 }) ∧
    (∀ p : PairRR,
      let x := s.hl.toNat
      let y := (s.rr p).toNat
      let hl : Word := BitVec.ofNat 16 ((x + y) % 65536)
      BytesAre (.addHlRr p) [9 + 16 * p.code.toNat] ∧
      ∃ f, FlagsAre f (s.regs.f.getLsbD 7) false (decide (4095 < x % 4096 + y % 4096))
          (decide (65535 < x + y)) ∧
        exec (.addHlRr p) s =
          .next { s with
            regs := { s.regs with h := hiByte hl, l := loByte hl, f := f, pc := s.regs.pc + 1 }, cyc := 8 })

/-- Rule R204: the pair is pushed, high byte first; AF is A and F with its low nibble zero. -/
def Obligations.PushResults : Prop :=
  ∀ (s : State),
    BytesAre (.pushQq .bc) [0xC5] ∧ BytesAre (.pushQq .de) [0xD5] ∧ BytesAre (.pushQq .hl) [0xE5] ∧
    BytesAre (.pushQq .af) [0xF5] ∧
    PushesThen (.pushQq .bc) s (s.regs.b ++ s.regs.c) (s.regs.pc + 1) 16 ∧
    PushesThen (.pushQq .de) s (s.regs.d ++ s.regs.e) (s.regs.pc + 1) 16 ∧
    PushesThen (.pushQq .hl) s (s.regs.h ++ s.regs.l) (s.regs.pc + 1) 16 ∧
    PushesThen (.pushQq .af) s (s.regs.a ++ (s.regs.f &&& 0xF0)) (s.regs.pc + 1) 16

/-- Rules R205, R206: the low register from the byte at SP, the high one from SP + 1, SP increased by 2; POP AF
discards the low four bits of the byte popped into F. -/
def Obligations.PopResults : Prop :=
  ∀ (s : State),
    BytesAre (.popQq .bc) [0xC1] ∧ BytesAre (.popQq .de) [0xD1] ∧ BytesAre (.popQq .hl) [0xE1] ∧
    BytesAre .popAf [0xF1] ∧
    (∀ lo hi : Byte, s.readByte s.regs.sp = .ok lo → s.readByte (s.regs.sp + 1) = .ok hi →
      let r := { s.regs with sp := s.regs.sp + 2, pc := s.regs.pc + 1 }
      exec (.popQq .bc) s = .next { s with regs := { r with b := hi, c := lo }, cyc := 12 } ∧
      exec (.popQq .de) s = .next { s with regs := { r with d := hi, e := lo }, cyc := 12 } ∧
      exec (.popQq .hl) s = .next { s with regs := { r with h := hi, l := lo }, cyc := 12 } ∧
      ∃ f, FlagsAre f (lo.getLsbD 7) (lo.getLsbD 6) (lo.getLsbD 5) (lo.getLsbD 4) ∧
        exec .popAf s = .next { s with regs := { r with a := hi, f := f }, cyc := 12 }) ∧
    (∀ c, (s.readByte s.regs.sp = .error c ∨
        ∃ lo, s.readByte s.regs.sp = .ok lo ∧ s.readByte (s.regs.sp + 1) = .error c) →
      (∀ q, CrashesWith (.popQq q) s c) ∧ CrashesWith .popAf s c)

/-! ## 8-bit arithmetic and logic -/

/-- Rules R215 (`add8`), R217 to R222: ADD and ADC of a register, the byte at HL or an immediate. -/
def Obligations.AddResults : Prop :=
  ∀ (s : State) (v : Byte),
    let a := s.regs.a
    let cin := (s.regs.f.getLsbD 4).toNat
    let gives := fun (i : Instr) (k len cycles : Nat) =>
      GivesA i s (BitVec.ofNat 8 ((a.toNat + v.toNat + k) % 256))
        (decide ((a.toNat + v.toNat + k) % 256 = 0)) false
        (decide (15 < a.toNat % 16 + v.toNat % 16 + k)) (decide (255 < a.toNat + v.toNat + k)) len cycles
    (∀ r : Reg8, BytesAre (.addAR r) [128 + r.code.toNat] ∧ BytesAre (.adcAR r) [136 + r.code.toNat] ∧
      (s.reg r = v → gives (.addAR r) 0 1 4 ∧ gives (.adcAR r) cin 1 4)) ∧
    (BytesAre .addAHl [0x86] ∧ BytesAre .adcAHl [0x8E] ∧
      (s.readByte s.hl = .ok v → gives .addAHl 0 1 8 ∧ gives .adcAHl cin 1 8) ∧
      (∀ c, s.readByte s.hl = .error c → CrashesWith .addAHl s c ∧ CrashesWith .adcAHl s c)) ∧
    (BytesAre (.addAN v) [0xC6, v.toNat] ∧ BytesAre (.adcAN v) [0xCE, v.toNat] ∧
      gives (.addAN v) 0 2 8 ∧ gives (.adcAN v) cin 2 8)

/-- Rules R215 (`sub8`), R223 to R228: SUB and SBC, with the borrows as comparisons. -/
def Obligations.SubtractResults : Prop :=
  ∀ (s : State) (v : Byte),
    let a := s.regs.a
    let cin := (s.regs.f.getLsbD 4).toNat
    let gives := fun (i : Instr) (k len cycles : Nat) =>
      GivesA i s (BitVec.ofInt 8 ((a.toNat : Int) - v.toNat - k))
        (decide (((a.toNat : Int) - v.toNat - k) % 256 = 0)) true
        (decide (a.toNat % 16 < v.toNat % 16 + k)) (decide (a.toNat < v.toNat + k)) len cycles
    (∀ r : Reg8, BytesAre (.subR r) [144 + r.code.toNat] ∧ BytesAre (.sbcAR r) [152 + r.code.toNat] ∧
      (s.reg r = v → gives (.subR r) 0 1 4 ∧ gives (.sbcAR r) cin 1 4)) ∧
    (BytesAre .subHl [0x96] ∧ BytesAre .sbcAHl [0x9E] ∧
      (s.readByte s.hl = .ok v → gives .subHl 0 1 8 ∧ gives .sbcAHl cin 1 8) ∧
      (∀ c, s.readByte s.hl = .error c → CrashesWith .subHl s c ∧ CrashesWith .sbcAHl s c)) ∧
    (BytesAre (.subN v) [0xD6, v.toNat] ∧ BytesAre (.sbcAN v) [0xDE, v.toNat] ∧
      gives (.subN v) 0 2 8 ∧ gives (.sbcAN v) cin 2 8)

/-- Rules R215 (`and8`, `xor8`, `or8`), R229 to R237. -/
def Obligations.LogicResults : Prop :=
  ∀ (s : State) (v : Byte),
    let a := s.regs.a
    let ands := fun (i : Instr) (len cycles : Nat) =>
      GivesA i s (a &&& v) (decide (a &&& v = 0)) false true false len cycles
    let xors := fun (i : Instr) (len cycles : Nat) =>
      GivesA i s (a ^^^ v) (decide (a = v)) false false false len cycles
    let ors := fun (i : Instr) (len cycles : Nat) =>
      GivesA i s (a ||| v) (decide (a = 0 ∧ v = 0)) false false false len cycles
    (∀ r : Reg8, BytesAre (.andR r) [160 + r.code.toNat] ∧ BytesAre (.xorR r) [168 + r.code.toNat] ∧
      BytesAre (.orR r) [176 + r.code.toNat] ∧
      (s.reg r = v → ands (.andR r) 1 4 ∧ xors (.xorR r) 1 4 ∧ ors (.orR r) 1 4)) ∧
    (BytesAre .andHl [0xA6] ∧ BytesAre .xorHl [0xAE] ∧ BytesAre .orHl [0xB6] ∧
      (s.readByte s.hl = .ok v → ands .andHl 1 8 ∧ xors .xorHl 1 8 ∧ ors .orHl 1 8) ∧
      (∀ c, s.readByte s.hl = .error c →
        CrashesWith .andHl s c ∧ CrashesWith .xorHl s c ∧ CrashesWith .orHl s c)) ∧
    (BytesAre (.andN v) [0xE6, v.toNat] ∧ BytesAre (.xorN v) [0xEE, v.toNat] ∧
      BytesAre (.orN v) [0xF6, v.toNat] ∧ ands (.andN v) 2 8 ∧ xors (.xorN v) 2 8 ∧ ors (.orN v) 2 8)

/-- Rules R238 to R240: CP sets the flags of A - x with no borrow in and leaves A. -/
def Obligations.CompareResults : Prop :=
  ∀ (s : State) (v : Byte),
    let a := s.regs.a
    let gives := fun (i : Instr) (len cycles : Nat) =>
      GivesA i s a (decide (a = v)) true (decide (a.toNat % 16 < v.toNat % 16)) (decide (a.toNat < v.toNat))
        len cycles
    (∀ r : Reg8, BytesAre (.cpR r) [184 + r.code.toNat] ∧ (s.reg r = v → gives (.cpR r) 1 4)) ∧
    (BytesAre .cpHl [0xBE] ∧ (s.readByte s.hl = .ok v → gives .cpHl 1 8) ∧
      (∀ c, s.readByte s.hl = .error c → CrashesWith .cpHl s c)) ∧
    (BytesAre (.cpN v) [0xFE, v.toNat] ∧ gives (.cpN v) 2 8)

/-- Rules R241, R243: INC r and DEC r wrap at 0 and 255, set Z, N, H and leave C. -/
def Obligations.IncDecRegisterResults : Prop :=
  ∀ (s : State) (r : Reg8),
    let v := (s.reg r).toNat
    BytesAre (.incR r) [4 + 8 * r.code.toNat] ∧ BytesAre (.decR r) [5 + 8 * r.code.toNat] ∧
    GivesReg (.incR r) s r (BitVec.ofNat 8 ((v + 1) % 256)) (decide (v = 255)) false (decide (v % 16 = 15))
      (s.regs.f.getLsbD 4) 1 4 ∧
    GivesReg (.decR r) s r (BitVec.ofNat 8 ((v + 255) % 256)) (decide (v = 1)) true (decide (v % 16 = 0))
      (s.regs.f.getLsbD 4) 1 4

/-- Rules R242, R244: INC (HL) and DEC (HL) read, count, write back; the flags as for a register. -/
def Obligations.IncDecMemoryResults : Prop :=
  ∀ (s : State),
    BytesAre .incHlMem [0x34] ∧ BytesAre .decHlMem [0x35] ∧
    ModifiesHl .incHlMem s (fun v => BitVec.ofNat 8 ((v.toNat + 1) % 256))
      (fun v f => FlagsAre f (decide (v.toNat = 255)) false (decide (v.toNat % 16 = 15)) (s.regs.f.getLsbD 4))
      1 12 ∧
    ModifiesHl .decHlMem s (fun v => BitVec.ofNat 8 ((v.toNat + 255) % 256))
      (fun v f => FlagsAre f (decide (v.toNat = 1)) true (decide (v.toNat % 16 = 0)) (s.regs.f.getLsbD 4))
      1 12

/-- Rule R245. -/
def Obligations.DecimalAdjustResult : Prop :=
  ∀ (s : State),
    let a := s.regs.a.toNat
    let n := s.regs.f.getLsbD 6
    let h := s.regs.f.getLsbD 5
    let c := s.regs.f.getLsbD 4
    let low := if h = true ∨ n = false ∧ 9 < a % 16 then 0x06 else 0
    let high := if c = true ∨ n = false ∧ 0x99 < a then 0x60 else 0
    let res := if n then (a + 512 - (low + high)) % 256 else (a + low + high) % 256
    BytesAre .daa [0x27] ∧
    GivesA .daa s (BitVec.ofNat 8 res) (decide (res = 0)) n false (decide (c = true ∨ n = false ∧ 0x99 < a)) 1 4

/-- Rules R246 to R248. -/
def Obligations.ComplementAndCarryResults : Prop :=
  ∀ (s : State),
    let z := s.regs.f.getLsbD 7
    let c := s.regs.f.getLsbD 4
    BytesAre .cpl [0x2F] ∧ GivesA .cpl s (BitVec.ofNat 8 (255 - s.regs.a.toNat)) z true true c 1 4 ∧
    BytesAre .scf [0x37] ∧ GivesA .scf s s.regs.a z false false true 1 4 ∧
    BytesAre .ccf [0x3F] ∧ GivesA .ccf s s.regs.a z false false (!c) 1 4

/-! ## Rotates, shifts, bits -/

/-- Rules R276 to R279: the accumulator rotates clear Z; the numbers are those of R275. -/
def Obligations.RotateAccumulatorResults : Prop :=
  ∀ (s : State),
    let v := s.regs.a.toNat
    let c := (s.regs.f.getLsbD 4).toNat
    let top := decide (128 ≤ v)
    let low := decide (v % 2 = 1)
    BytesAre .rlca [0x07] ∧
    GivesA .rlca s (BitVec.ofNat 8 (2 * v % 256 + v / 128)) false false false top 1 4 ∧
    BytesAre .rrca [0x0F] ∧
    GivesA .rrca s (BitVec.ofNat 8 (v / 2 + 128 * (v % 2))) false false false low 1 4 ∧
    BytesAre .rla [0x17] ∧
    GivesA .rla s (BitVec.ofNat 8 (2 * v % 256 + c)) false false false top 1 4 ∧
    BytesAre .rra [0x1F] ∧
    GivesA .rra s (BitVec.ofNat 8 (v / 2 + 128 * c)) false false false low 1 4

/-- Rules R280, R282, R284, R286, R288, R290, R292, R294: the eight operations on a register. -/
def Obligations.RotateShiftRegisterResults : Prop :=
  ∀ (s : State) (r : Reg8),
    let v := (s.reg r).toNat
    let c := (s.regs.f.getLsbD 4).toNat
    let top := decide (128 ≤ v)
    let low := decide (v % 2 = 1)
    let gives := fun (i : Instr) (op res : Nat) (out : Bool) =>
      BytesAre i [0xCB, op + r.code.toNat] ∧
      GivesReg i s r (BitVec.ofNat 8 res) (decide (res = 0)) false false out 2 8
    gives (.rlcR r) 0x00 (2 * v % 256 + v / 128) top ∧
    gives (.rrcR r) 0x08 (v / 2 + 128 * (v % 2)) low ∧
    gives (.rlR r) 0x10 (2 * v % 256 + c) top ∧
    gives (.rrR r) 0x18 (v / 2 + 128 * c) low ∧
    gives (.slaR r) 0x20 (2 * v % 256) top ∧
    gives (.sraR r) 0x28 (v / 2 + 128 * (v / 128)) low ∧
    gives (.swapR r) 0x30 (16 * v % 256 + v / 16) false ∧
    gives (.srlR r) 0x38 (v / 2) low

/-- Rules R281, R283, R285, R287, R289, R291, R293, R295: the eight operations on the byte at HL. -/
def Obligations.RotateShiftMemoryResults : Prop :=
  ∀ (s : State),
    let c := (s.regs.f.getLsbD 4).toNat
    let gives := fun (i : Instr) (op : Nat) (res : Nat → Nat) (out : Nat → Bool) =>
      BytesAre i [0xCB, op] ∧
      ModifiesHl i s (fun v => BitVec.ofNat 8 (res v.toNat))
        (fun v f => FlagsAre f (decide (res v.toNat = 0)) false false (out v.toNat)) 2 16
    let top := fun v : Nat => decide (128 ≤ v)
    let low := fun v : Nat => decide (v % 2 = 1)
    gives .rlcHl 0x06 (fun v => 2 * v % 256 + v / 128) top ∧
    gives .rrcHl 0x0E (fun v => v / 2 + 128 * (v % 2)) low ∧
    gives .rlHl 0x16 (fun v => 2 * v % 256 + c) top ∧
    gives .rrHl 0x1E (fun v => v / 2 + 128 * c) low ∧
    gives .slaHl 0x26 (fun v => 2 * v % 256) top ∧
    gives .sraHl 0x2E (fun v => v / 2 + 128 * (v / 128)) low ∧
    gives .swapHl 0x36 (fun v => 16 * v % 256 + v / 16) (fun _ => false) ∧
    gives .srlHl 0x3E (fun v => v / 2) low

/-- Rules R296, R297: BIT sets Z when the bit is 0, clears N, sets H, leaves C and writes nothing. Rules R298 to
R301: RES clears bit `b` and SET sets it, bit by bit; no flag changes. -/
def Obligations.BitInstructionResults : Prop :=
  ∀ (s : State) (b : BitVec 3),
    let changed := fun (v w : Byte) (x : Bool) =>
      ∀ k, k < 8 → w.getLsbD k = if k = b.toNat then x else v.getLsbD k
    let c := s.regs.f.getLsbD 4
    (∀ r : Reg8, BytesAre (.bitR b r) [0xCB, 64 + 8 * b.toNat + r.code.toNat] ∧
      GivesA (.bitR b r) s s.regs.a (!(s.reg r).getLsbD b.toNat) false true c 2 8) ∧
    BytesAre (.bitHl b) [0xCB, 70 + 8 * b.toNat] ∧
    (∀ v, s.readByte s.hl = .ok v → GivesA (.bitHl b) s s.regs.a (!v.getLsbD b.toNat) false true c 2 12) ∧
    (∀ x, s.readByte s.hl = .error x → CrashesWith (.bitHl b) s x) ∧
    (∀ r : Reg8, BytesAre (.resR b r) [0xCB, 128 + 8 * b.toNat + r.code.toNat] ∧
      ∃ t w, changed (s.reg r) w false ∧ exec (.resR b r) s = .next t ∧ s.OnlyReg t r w ∧
        s.CpuStep t s.regs.f s.regs.sp (s.regs.pc + 2) 8) ∧
    (∀ r : Reg8, BytesAre (.setR b r) [0xCB, 192 + 8 * b.toNat + r.code.toNat] ∧
      ∃ t w, changed (s.reg r) w true ∧ exec (.setR b r) s = .next t ∧ s.OnlyReg t r w ∧
        s.CpuStep t s.regs.f s.regs.sp (s.regs.pc + 2) 8) ∧
    (BytesAre (.resHl b) [0xCB, 134 + 8 * b.toNat] ∧
      ∃ g : Byte → Byte, (∀ v, changed v (g v) false) ∧
        ModifiesHl (.resHl b) s g (fun _ f => f = s.regs.f) 2 16) ∧
    (BytesAre (.setHl b) [0xCB, 198 + 8 * b.toNat] ∧
      ∃ g : Byte → Byte, (∀ v, changed v (g v) true) ∧
        ModifiesHl (.setHl b) s g (fun _ f => f = s.regs.f) 2 16)

/-! ## Control transfers -/

/-- Rules R311 to R315: the jumps, taken and not taken; rule R145: the four conditions. -/
def Obligations.JumpResults : Prop :=
  ∀ (s : State),
    let target := fun e : Byte => (BitVec.ofInt 16 ((s.regs.pc.toNat : Int) + 2 + e.toInt) : Word)
    (s.holds .nz = true ↔ s.regs.f.getLsbD 7 = false) ∧ (s.holds .z = true ↔ s.regs.f.getLsbD 7 = true) ∧
    (s.holds .nc = true ↔ s.regs.f.getLsbD 4 = false) ∧ (s.holds .c = true ↔ s.regs.f.getLsbD 4 = true) ∧
    Cond.code .nz = 0 ∧ Cond.code .z = 1 ∧ Cond.code .nc = 2 ∧ Cond.code .c = 3 ∧
    (∀ nn : Word, BytesAre (.jpNn nn) [0xC3, nn.toNat % 256, nn.toNat / 256] ∧ GoesTo (.jpNn nn) s nn 16) ∧
    (∀ (cc : Cond) (nn : Word),
      BytesAre (.jpCcNn cc nn) [0xC2 + 8 * cc.code.toNat, nn.toNat % 256, nn.toNat / 256] ∧
      (s.holds cc = true → GoesTo (.jpCcNn cc nn) s nn 16) ∧
      (s.holds cc = false → GoesTo (.jpCcNn cc nn) s (s.regs.pc + 3) 12)) ∧
    (BytesAre .jpHl [0xE9] ∧ GoesTo .jpHl s (s.regs.h ++ s.regs.l) 4) ∧
    (∀ e : Byte, BytesAre (.jrE e) [0x18, e.toNat] ∧ GoesTo (.jrE e) s (target e) 12) ∧
    (∀ (cc : Cond) (e : Byte), BytesAre (.jrCcE cc e) [0x20 + 8 * cc.code.toNat, e.toNat] ∧
      (s.holds cc = true → GoesTo (.jrCcE cc e) s (target e) 12) ∧
      (s.holds cc = false → GoesTo (.jrCcE cc e) s (s.regs.pc + 2) 8))

/-- Rules R316, R317, R322: the address of the following instruction is pushed, then PC is the target. -/
def Obligations.CallResults : Prop :=
  ∀ (s : State),
    (∀ nn : Word, BytesAre (.callNn nn) [0xCD, nn.toNat % 256, nn.toNat / 256] ∧
      PushesThen (.callNn nn) s (s.regs.pc + 3) nn 24) ∧
    (∀ (cc : Cond) (nn : Word),
      BytesAre (.callCcNn cc nn) [0xC4 + 8 * cc.code.toNat, nn.toNat % 256, nn.toNat / 256] ∧
      (s.holds cc = true → PushesThen (.callCcNn cc nn) s (s.regs.pc + 3) nn 24) ∧
      (s.holds cc = false → GoesTo (.callCcNn cc nn) s (s.regs.pc + 3) 12)) ∧
    (∀ t : BitVec 3, BytesAre (.rstT t) [0xC7 + 8 * t.toNat] ∧
      PushesThen (.rstT t) s (s.regs.pc + 1) (BitVec.ofNat 16 (8 * t.toNat)) 16)

/-- Rules R318 to R320: PC is popped; RETI also sets the master-enable. That RETI leaves an enable on its way, which
only a machine with EI_DELAY > 0 has, is the model's choice (log entry 7). -/
def Obligations.ReturnResults : Prop :=
  ∀ (s : State),
    BytesAre .ret [0xC9] ∧ PopsPc .ret s s.ime 16 ∧
    (∀ cc : Cond, BytesAre (.retCc cc) [0xC0 + 8 * cc.code.toNat] ∧
      (s.holds cc = true → PopsPc (.retCc cc) s s.ime 20) ∧
      (s.holds cc = false → GoesTo (.retCc cc) s (s.regs.pc + 1) 8)) ∧
    BytesAre .reti [0xD9] ∧ PopsPc .reti s true 16

/-! ## System instructions -/

/-- Rules R330 to R333 and, with EI_DELAY = 0, R334. That DI also drops an enable on its way, which a machine
with EI_DELAY = 0 never has, is the model's choice (log entry 7). -/
def Obligations.SystemInstructionResults : Prop :=
  ∀ (s : State),
    (BytesAre .nop [0x00] ∧ GoesTo .nop s (s.regs.pc + 1) 4) ∧
    (BytesAre .halt [0x76] ∧
      exec .halt s = .next { s with halt := true, regs := { s.regs with pc := s.regs.pc + 1 }, cyc := 4 }) ∧
    (∀ n : Byte, BytesAre (.stop n) [0x10, n.toNat] ∧
      exec (.stop n) s = .next { s with stop := true, regs := { s.regs with pc := s.regs.pc + 2 }, cyc := 4 }) ∧
    (BytesAre .di [0xF3] ∧
      exec .di s =
        .next { s with
          ime := false, eiPending := none, regs := { s.regs with pc := s.regs.pc + 1 }, cyc := 4 }) ∧
    (BytesAre .ei [0xFB] ∧
      (s.params.eiDelay = 0 →
        exec .ei s = .next { s with ime := true, regs := { s.regs with pc := s.regs.pc + 1 }, cyc := 4 }))

/-- Rule R334 with EI_DELAY = 1: EI sets no master-enable at once; it is set after the following instruction has
executed and before that step's interrupt check. That the wait is a counter in the state is the model's own
(log entry 7). -/
def Obligations.DelayedEnableComesAfterNextInstruction : Prop :=
  ∀ (s : State), s.params.eiDelay = 1 → s.Quiet →
    (s.ime = false → s.eiPending = none → s.readByte s.regs.pc = .ok 0xFB →
      step s =
        .next ((({ s with
          eiPending := some 1, regs := { s.regs with pc := s.regs.pc + 1 }, cyc := 4 } : State).advanceClocks
            4).serviceInterrupts)) ∧
    (∀ (i : Instr) (bs : List Byte) (t : State), s.eiPending = some 1 → s.BytesAt s.regs.pc bs →
      decode bs = .ok (i, []) → exec i s = .next t → t.run = .running → t.eiPending = some 1 →
      step s =
        .next ((({ t with ime := true, eiPending := none } : State).advanceClocks t.cyc).serviceInterrupts))

/-- Rule R335: the prefix runs the extended instruction its second byte selects, one for every byte. -/
def Obligations.PrefixRunsExtendedInstruction : Prop :=
  ∀ (op2 : Byte), ∃ i : Instr, decode [0xCB, op2] = .ok (i, []) ∧ BytesAre i [0xCB, op2.toNat] ∧
    ∀ s : State, exec (.prefixCb op2) s = exec i s ∧
      ∃ t, exec (.prefixCb op2) s = .next t ∧
        (op2.toNat % 8 ≠ 6 → t.run = s.run ∧ t.regs.pc = s.regs.pc + 2 ∧ t.cyc = 8)

/-- Rule R336: each of the eleven opcodes crashes the machine and changes nothing else, in `exec` and in a step. -/
def Obligations.UnrecognizedOpcodesCrash : Prop :=
  ∀ (s : State) (p : Instr × Byte),
    p ∈ [(.unrecD3, (0xD3 : Byte)), (.unrecDB, 0xDB), (.unrecDD, 0xDD), (.unrecE3, 0xE3), (.unrecE4, 0xE4),
      (.unrecEB, 0xEB), (.unrecEC, 0xEC), (.unrecED, 0xED), (.unrecF4, 0xF4), (.unrecFC, 0xFC),
      (.unrecFD, 0xFD)] →
    encode p.1 = [p.2] ∧ exec p.1 s = .next { s with run := .crashed .unrecognizedInstruction } ∧
    (s.Quiet → s.readByte s.regs.pc = .ok p.2 →
      step s = .next { s with run := .crashed .unrecognizedInstruction })

/-! ## Frames over all instructions -/

/-- Rules R641, R24, R310: an instruction that does not crash reports the cycles of its table row, and one that is
no control transfer ends with PC + LEN. -/
def Obligations.InstructionsReportCyclesAndLength : Prop :=
  ∀ (i : Instr) (s t : State), exec i s = .next t → t.Alive →
    (∀ cc, conditionOf i = some cc → t.cyc = i.cycles (s.holds cc)) ∧
    (conditionOf i = none → t.cyc = i.cycles true) ∧
    (isTransfer i = false → t.regs.pc = s.regs.pc + BitVec.ofNat 16 i.length)

/-- An instruction that stores nothing changes no memory byte and no unit: only CPU registers, the cycle report,
and the modes that HALT, STOP, DI, EI and RETI write. -/
def Obligations.NonStoringInstructionsLeaveMemory : Prop :=
  ∀ (i : Instr) (s t : State), storeAddresses i s = [] → exec i s = .next t → t.Alive →
    t = { s with
      regs := t.regs, cyc := t.cyc, ime := t.ime, halt := t.halt, stop := t.stop, eiPending := t.eiPending } ∧
    (∀ a, t.readByte a = s.readByte a) ∧
    (i ≠ .reti → i ≠ .di → i ≠ .ei → i ≠ .halt → (∀ n, i ≠ .stop n) →
      t.ime = s.ime ∧ t.halt = s.halt ∧ t.stop = s.stop ∧ t.eiPending = s.eiPending)

/-- An instruction whose stores all go to plain arrays completes, and every address that reaches none of the stored
bytes reads as before; under the default map that is every address but the stored ones. Nothing but those
arrays, CPU registers and the cycle report changes. -/
def Obligations.StoringInstructionsChangeStoredBytesOnly : Prop :=
  ∀ (i : Instr) (s : State), s.MemoriesCanonical → storeAddresses i s ≠ [] →
    (∀ a ∈ storeAddresses i s, s.PlainAt a) →
    ∃ t, exec i s = .next t ∧
      (∀ b, (∀ a ∈ storeAddresses i s, s.target b ≠ s.target a) → t.readByte b = s.readByte b) ∧
      (s.MapSound → ∀ b, b ∉ storeAddresses i s → t.readByte b = s.readByte b) ∧
      t = { s with
        regs := t.regs, cyc := t.cyc, wram := t.wram, hram := t.hram
        ppu := { s.ppu with vram := t.ppu.vram, oam := t.ppu.oam } }

/-- Rules R95, R106, R431: a write of a plain array is read back and leaves every address that reaches another byte
alone; under the default map that is every other address. -/
def Obligations.PlainWriteReadsBack : Prop :=
  ∀ (s : State) (a : Word) (v : Byte), s.MemoriesCanonical → s.PlainAt a →
    ∃ t, s.writeByte a v = .done () t ∧ s.StoredOnly t a v ∧
      (s.MapSound → ∀ b, b ≠ a → t.readByte b = s.readByte b) ∧
      t.regs = s.regs ∧ t.cyc = s.cyc ∧ t.MemoriesCanonical

/-! ## Interrupts, suspension, host -/

/-- Rules R365, R366, R368: with the master-enable set the lowest enabled and requested source is taken: its flag
and the master-enable are cleared, PC is pushed, PC becomes 0x40 + 8 i, no other register changes, and the clocks
advance by a positive INT_DISPATCH_CYCLES; with none such, or with the master-enable clear, nothing happens.
That 0 propagates nothing and that the cycle report stays is the model's choice (log entry 17), that an enable
on its way stays is too (log entry 7). -/
def Obligations.DispatchTakesLowestPendingSource : Prop :=
  ∀ (s : State),
    (s.ime = false ∨ (∀ k, k < 5 → (s.ieReg.getLsbD k && s.ifReg.getLsbD k) = false) → s.dispatch = s) ∧
    (∀ i, i < 5 → s.ime = true → (s.ieReg.getLsbD i && s.ifReg.getLsbD i) = true →
      (∀ k, k < i → (s.ieReg.getLsbD k && s.ifReg.getLsbD k) = false) →
      ∃ flags : Byte, (∀ k, k < 8 → flags.getLsbD k = (s.ifReg.getLsbD k && decide (k ≠ i))) ∧
        let s1 := { s with ifReg := flags, ime := false }
        (∀ u w, s1.writeByte (s.regs.sp - 1) (hiByte s.regs.pc) = .done () u →
          u.writeByte (s.regs.sp - 2) (loByte s.regs.pc) = .done () w →
          let taken : State :=
            { w with regs := { s.regs with sp := s.regs.sp - 2, pc := BitVec.ofNat 16 (0x40 + 8 * i) } }
          (s.params.intDispatchCycles = 0 → s.dispatch = taken) ∧
          (0 < s.params.intDispatchCycles → s.dispatch = taken.advanceClocks s.params.intDispatchCycles)) ∧
        (∀ c u, s1.writeByte (s.regs.sp - 1) (hiByte s.regs.pc) = .fatal c u →
          s.dispatch.run = .crashed c) ∧
        (∀ c u w, s1.writeByte (s.regs.sp - 1) (hiByte s.regs.pc) = .done () u →
          u.writeByte (s.regs.sp - 2) (loByte s.regs.pc) = .fatal c w → s.dispatch.run = .crashed c))

/-- Rules R364, R370: in halt or stop, after the step's inputs (R420), a step reports IDLE_CYCLES, fetches nothing,
changes no byte a program can store (rule R40) and keeps the registers where nothing is dispatched; a flag in IF bits
4 to 0 (an enabled one with WAKE_MASKED_BY_IE) ends halt, and stop with STOP_WAKE_ANY_FLAG. That the idle clocks leave
an enable on its way is the model's choice (log entry 7). -/
def Obligations.SuspendedStepIdlesAndWakes : Prop :=
  (∀ s : State, s.PastBoundary →
    let p := s.afterInput
    p.halt = true ∨ p.stop = true →
    ∃ t : State, t = ({ p with cyc := p.params.idleCycles } : State).advanceClocks p.params.idleCycles ∧
      step s = .next t.wake.dispatch ∧ t.regs = s.regs ∧ t.halt = p.halt ∧ t.stop = p.stop ∧ t.ime = s.ime ∧
      t.eiPending = s.eiPending ∧
      t.wram = s.wram ∧ t.hram = s.hram ∧ t.ppu.vram = s.ppu.vram ∧ t.ppu.oam = s.ppu.oam ∧
      t.apu.wave = s.apu.wave ∧ t.cart.cram = s.cart.cram ∧ t.cart.rom = s.cart.rom ∧ t.boot = s.boot ∧
      (s.ime = false ∨ (∀ k, k < 5 → (t.ieReg.getLsbD k && t.ifReg.getLsbD k) = false) →
        t.wake.dispatch = t.wake ∧ t.wake.regs = s.regs)) ∧
  (∀ t : State,
    let seen := fun k => t.ifReg.getLsbD k && (t.ieReg.getLsbD k || !t.params.wakeMaskedByIe)
    ((∃ k, k < 5 ∧ seen k = true) →
      t.wake = { t with halt := false, stop := t.stop && !t.params.stopWakeAnyFlag }) ∧
    ((∀ k, k < 5 → seen k = false) → t.wake = t))

/-- Rules R35, R387, R388: no step leaves a crashed or exited state; the host's stop flag ends the run and its pause
flag changes nothing, at the boundary before anything else of the step. The model's own: that a terminal state
faults (log entry 5), that the host's input is a list in the state from which each boundary is taken (log entry
8), and that a stopped or paused boundary too takes its entry and queues the events that came with it (log
entry 15). -/
def Obligations.HostFlagsAndTerminalStates : Prop :=
  ∀ (s : State),
    (∀ c, s.run = .crashed c → step s = .fault (.crashed c)) ∧
    (s.run = .exited → step s = .fault .exited) ∧
    (∀ (tick : HostTick) (rest : List HostTick), s.run = .running → s.host.ticks = tick :: rest →
      let host := { s.host with ticks := rest, events := s.host.events ++ tick.arrivals }
      (tick.stopFlag = true → step s = .next { s with run := .exited, host := host }) ∧
      (tick.stopFlag = false → tick.pauseFlag = true → step s = .next { s with host := host }))

/-- Rules R420 to R424 and R46: a step past the host boundary consumes one event, if the queue, which the boundary's
arrivals join first (log entry 8), has one; what the step then is say `StepRunsDecodedInstruction` and
`SuspendedStepIdlesAndWakes`, from the state the poll leaves. An event ends stop, and a press of a released button (with
JOYPAD_IRQ_ON_RELEASE any change) requests interrupt 4; P1 reads 0 where a button of a selected group is
pressed, and a write stores bits 7 to 4 only. -/
def Obligations.JoypadEventsAndReads : Prop :=
  ∀ (s : State),
    (s.PastBoundary → ∀ t, step s = .next t → t.Alive →
      t.host.ticks = s.host.ticks.tail ∧
      t.host.events = (s.host.events ++ (s.host.ticks.head?.map HostTick.arrivals).getD []).tail) ∧
    (∀ ev : ButtonEvent, s.run = .running → s.host.ticks = [] → s.host.events = [ev] →
      step s = step s.pollJoypad) ∧
    (∀ tick : HostTick, s.run = .running → s.host.ticks = [tick] → tick.stopFlag = false → tick.pauseFlag = false →
      step s = step { s with host := { s.host with ticks := [], events := s.host.events ++ tick.arrivals } }) ∧
    (s.host.events = [] → s.pollJoypad = s) ∧
    (∀ (ev : ButtonEvent) (rest : List ButtonEvent), s.host.events = ev :: rest →
      let t := s.pollJoypad
      let old := s.joypad.pressed.get ev.button
      t = { s with
        joypad := { s.joypad with pressed := t.joypad.pressed }, stop := false, ifReg := t.ifReg
        host := { s.host with events := rest } } ∧
      t.joypad.pressed.get ev.button = ev.pressed ∧
      (∀ btn, btn ≠ ev.button → t.joypad.pressed.get btn = s.joypad.pressed.get btn) ∧
      (∀ k, k < 8 → t.ifReg.getLsbD k = (s.ifReg.getLsbD k ||
        decide (k = 4 ∧ old ≠ ev.pressed ∧ (ev.pressed = true ∨ s.params.joypadIrqOnRelease = true))))) ∧
    (s.MapSound → ∃ v, s.readByte 0xFF00 = .ok v ∧
      let p := s.joypad.pressed
      let dir := !s.joypad.p1.getLsbD 4
      let act := !s.joypad.p1.getLsbD 5
      (∀ k, 4 ≤ k → k < 8 → v.getLsbD k = s.joypad.p1.getLsbD k) ∧
      v.getLsbD 0 = !(dir && p.right || act && p.a) ∧ v.getLsbD 1 = !(dir && p.left || act && p.b) ∧
      v.getLsbD 2 = !(dir && p.up || act && p.select) ∧ v.getLsbD 3 = !(dir && p.down || act && p.start)) ∧
    (s.MapSound → ∀ v : Byte, ∃ p1 : Byte,
      (∀ k, 4 ≤ k → k < 8 → p1.getLsbD k = v.getLsbD k) ∧
      s.writeByte 0xFF00 v = .done () { s with joypad := { s.joypad with p1 := p1 } })

/-! ## Timer -/

/-- Rules R402 to R405: advancing by `m` then `n` is advancing by `m + n` (no phase is lost); DIV counts 256s modulo
256; with the counter disabled TIMA, its accumulator and the flags stay; a crossing of the threshold counts
TIMA, reloading from TMA and requesting interrupt 2 in the same tick on overflow. -/
def Obligations.TimerAdvanceIsExact : Prop :=
  ∀ (x : TimerIo) (n : Nat),
    let t := x.timer
    let y := x.advance n
    let rate := match t.tac.toNat % 4 with | 0 => 1024 | 1 => 16 | 2 => 64 | _ => 256
    (∀ m, (x.advance m).advance n = x.advance (m + n)) ∧
    y.timer.div.toNat = (t.div.toNat + (t.divAcc + n) / 256) % 256 ∧
    y.timer.divAcc = (t.divAcc + n) % 256 ∧ y.timer.tma = t.tma ∧ y.timer.tac = t.tac ∧
    (t.tac.getLsbD 2 = false → y.timer.tima = t.tima ∧ y.timer.timaAcc = t.timaAcc ∧ y.irq = x.irq) ∧
    (t.tac.getLsbD 2 = true → y.timer.timaAcc = (t.timaAcc + n) % rate ∧
      (t.timaAcc + n < rate → y.timer.tima = t.tima ∧ y.irq = x.irq) ∧
      (rate ≤ t.timaAcc + n → t.timaAcc + n < 2 * rate →
        (t.tima = 0xFF → y.timer.tima = t.tma ∧ y.irq = x.irq ||| 0x04) ∧
        (t.tima ≠ 0xFF → y.timer.tima.toNat = t.tima.toNat + 1 ∧ y.irq = x.irq)))

/-- Rule R401: the registers read as stored; a write of DIV clears it and its accumulator; a change of the rate
bits of TAC clears the counter's accumulator. -/
def Obligations.TimerRegisterAccesses : Prop :=
  ∀ (s : State) (v : Byte), s.MapSound →
    let t := s.timer
    (s.readByte 0xFF04 = .ok t.div ∧ s.readByte 0xFF05 = .ok t.tima ∧ s.readByte 0xFF06 = .ok t.tma ∧
      s.readByte 0xFF07 = .ok t.tac) ∧
    s.writeByte 0xFF04 v = .done () { s with timer := { t with div := 0, divAcc := 0 } } ∧
    s.writeByte 0xFF05 v = .done () { s with timer := { t with tima := v } } ∧
    s.writeByte 0xFF06 v = .done () { s with timer := { t with tma := v } } ∧
    (v.toNat % 4 = t.tac.toNat % 4 → s.writeByte 0xFF07 v = .done () { s with timer := { t with tac := v } }) ∧
    (v.toNat % 4 ≠ t.tac.toNat % 4 →
      s.writeByte 0xFF07 v = .done () { s with timer := { t with tac := v, timaAcc := 0 } })

/-! ## Display -/

/-- Rule R435, `until not moved`: an advance leaves no transition that could still happen. The end of OAM search selects
the line's sprites (rule R460) and clears its sprite rows. One cycle of TRANSFER renders one column of the background
and the window (rules R464, R465), draws at every 16th column one queued sprite over what its layer leaves
transparent (rules R461, R462), all through the palettes and video RAM of that moment (rules R463, R466), and after
column 159 composes the line (rule R468). That an entry moved off the line draws nothing is the model's choice
(log entry 10). Nothing else of the unit changes but the coincidence flag and the status line. After every advance
the coincidence flag says whether LY is LYC (rule R450). -/
def Obligations.DisplayAdvanceRendersAndSettles : Prop :=
  ∀ (pick : SpritePick) (x : PpuIo) (n : Nat), x.ppu.lcdc.getLsbD 7 = true →
    let p := x.ppu
    let y := (x.advance pick n).ppu
    ((y.mode = .oam → y.acc < 80) ∧ (y.mode = .transfer → y.col < 160 → y.acc = 0) ∧
      (y.mode = .transfer → y.col ≠ 160) ∧
      (y.mode = .hblank → y.acc < 204) ∧ (y.mode = .vblank → y.acc < 456)) ∧
    (y.lyc = p.lyc ∧ y.coin = decide (y.ly = y.lyc.toNat)) ∧
    (p.mode = .oam → p.ly < 144 → p.acc + n = 80 →
      (∀ r c, y.sprAbove.get r c = if r = p.ly then none else p.sprAbove.get r c) ∧
      (∀ r c, y.sprBelow.get r c = if r = p.ly then none else p.sprBelow.get r c) ∧
      y = { p with
        mode := .transfer, acc := 0, col := 0, queue := p.selection pick, nextSprite := 0, coin := y.coin
        statLine := y.statLine, sprAbove := y.sprAbove, sprBelow := y.sprBelow }) ∧
    (p.mode = .transfer → p.ly < 144 → p.acc = 0 → p.col < 160 → n = 1 →
      let drawn := if p.col % 16 = 0 then p.queue[p.nextSprite]? else none
      let onto := fun (old : Dot) (below : Bool) (c : Nat) =>
        old.or (drawn.bind fun i => if spriteIsBelow p i = below then spritePixel p i c else none)
      (∀ r c, y.bg.get r c = if r = p.ly ∧ c = p.col then some (bgPixel p c) else p.bg.get r c) ∧
      (∀ r c, y.win.get r c = if r = p.ly ∧ c = p.col then winPixel p c else p.win.get r c) ∧
      (∀ r c, c < 160 →
        y.sprAbove.get r c = (if r = p.ly then onto (p.sprAbove.get r c) false c else p.sprAbove.get r c) ∧
        y.sprBelow.get r c = (if r = p.ly then onto (p.sprBelow.get r c) true c else p.sprBelow.get r c)) ∧
      (p.col < 159 → y.mode = .transfer ∧ y.frame = p.frame) ∧
      (p.col = 159 → y.mode = .hblank ∧
        (∀ r c, r ≠ p.ly → y.frame.pixel r c = p.frame.pixel r c) ∧
        (∀ c b, c < 160 → y.bg.get p.ly c = some b →
          y.frame.pixel p.ly c =
            some (shownPixel (y.sprAbove.get p.ly c) (y.sprBelow.get p.ly c) (y.win.get p.ly c) b))) ∧
      y = { p with
        col := p.col + 1, nextSprite := if drawn.isSome then p.nextSprite + 1 else p.nextSprite, bg := y.bg
        win := y.win, sprAbove := y.sprAbove, sprBelow := y.sprBelow, frame := y.frame, mode := y.mode
        coin := y.coin, statLine := y.statLine })

/-- Rules R435, R436, R456, R470: one visible line from its start. After n cycles the mode is OAM for n < 80, TRANSFER
for 80 ≤ n < 240 (at column n - 80), HBLANK for 240 ≤ n < 444; at 444 the next line starts, and line 144 starts
V-blank, requests interrupt 0 and hands one frame to the sink. Rules R461 to R468: from 240 on the line's row of each
layer and of the frame shows background, window and the selected sprites, and every other row is as before. Rules
R435, R437: a V-blank line from its start lasts 456 cycles, then the next one starts or, after line 153, OAM search of
line 0; no frame is presented, V-blank is not requested, and of the unit only accumulator, line, mode, coincidence flag
and status line change. -/
def Obligations.DisplayLineTimelineAndPixels : Prop :=
  (∀ (pick : SpritePick) (x : PpuIo) (n : Nat), x.ppu.lcdc.getLsbD 7 = true → x.ppu.mode = .vblank → x.ppu.acc = 0 →
    144 ≤ x.ppu.ly → x.ppu.ly ≤ 153 → n ≤ 456 →
    let p := x.ppu
    let y := x.advance pick n
    y.frames = x.frames ∧ y.irq.getLsbD 0 = x.irq.getLsbD 0 ∧
    (n < 456 → y.ppu = { p with acc := n, coin := y.ppu.coin, statLine := y.ppu.statLine }) ∧
    (n = 456 → p.ly < 153 →
      y.ppu = { p with acc := 0, ly := p.ly + 1, coin := y.ppu.coin, statLine := y.ppu.statLine }) ∧
    (n = 456 → p.ly = 153 →
      y.ppu = { p with acc := 0, ly := 0, mode := .oam, coin := y.ppu.coin, statLine := y.ppu.statLine })) ∧
  (∀ (pick : SpritePick) (x : PpuIo) (n : Nat), x.ppu.lcdc.getLsbD 7 = true → x.ppu.mode = .oam → x.ppu.acc = 0 →
    x.ppu.ly < 144 → n ≤ 444 →
    let p := x.ppu
    let y := x.advance pick n
    (n < 80 → y.ppu.mode = .oam ∧ y.ppu.ly = p.ly) ∧
    (80 ≤ n → n < 240 → y.ppu.mode = .transfer ∧ y.ppu.col = n - 80 ∧ y.ppu.ly = p.ly) ∧
    (240 ≤ n → n < 444 → y.ppu.mode = .hblank ∧ y.ppu.ly = p.ly) ∧
    (n < 444 → y.frames = x.frames ∧ y.irq.getLsbD 0 = x.irq.getLsbD 0) ∧
    (n = 444 → y.ppu.ly = p.ly + 1 ∧ y.ppu.acc = 0 ∧
      (p.ly ≠ 143 → y.ppu.mode = .oam ∧ y.frames = x.frames) ∧
      (p.ly = 143 → y.ppu.mode = .vblank ∧ y.irq.getLsbD 0 = true ∧ y.frames = x.frames ++ [y.ppu.frame])) ∧
    (240 ≤ n →
      (∀ c, c < 160 →
        let above := spriteLayerPixel p false (p.selection pick) c
        let below := spriteLayerPixel p true (p.selection pick) c
        y.ppu.bg.get p.ly c = some (bgPixel p c) ∧ y.ppu.win.get p.ly c = winPixel p c ∧
        y.ppu.sprAbove.get p.ly c = above ∧ y.ppu.sprBelow.get p.ly c = below ∧
        y.ppu.frame.pixel p.ly c = some (shownPixel above below (winPixel p c) (bgPixel p c))) ∧
      (∀ r c, r ≠ p.ly →
        y.ppu.bg.get r c = p.bg.get r c ∧ y.ppu.win.get r c = p.win.get r c ∧
        y.ppu.sprAbove.get r c = p.sprAbove.get r c ∧ y.ppu.sprBelow.get r c = p.sprBelow.get r c ∧
        y.ppu.frame.pixel r c = p.frame.pixel r c)))

/-- Rule R455: the status interrupt is requested on the change of the line from false to true only. -/
def Obligations.StatusInterruptOnRisingLineOnly : Prop :=
  ∀ (x : PpuIo),
    let p := x.ppu
    let now := (p.coin && p.stat.getLsbD 6) || (decide (p.mode = .hblank) && p.stat.getLsbD 3) ||
      (decide (p.mode = .vblank) && p.stat.getLsbD 4) || (decide (p.mode = .oam) && p.stat.getLsbD 5)
    let y := x.updateStat
    y.ppu = { p with statLine := now } ∧ y.frames = x.frames ∧
    (now = true → p.statLine = false → y.irq = x.irq ||| 0x02) ∧
    (now = false ∨ p.statLine = true → y.irq = x.irq)

/-- The display registers through the bus. Rule R432: a read answers the stored byte, LY the line, and STAT its stored
bits 7 to 3 with the coincidence flag and the mode. Rule R433: a write stores the byte and does nothing else, STAT
takes bits 7 to 3 only, LY ignores it. Rules R472, R473: LCDC bit 7 from 1 to 0 resets the scanline state and
presents one blank frame, from 0 to 1 starts OAM search of line 0, unchanged it resets nothing; no interrupt is
requested. The copy that a write of DMA makes is `OamCopyCopiesPage`. -/
def Obligations.DisplayRegisterAccesses : Prop :=
  ∀ (s : State) (v : Byte), s.MapSound →
    let p := s.ppu
    let reads := fun (a : Word) (b : Byte) => s.readByte a = .ok b
    let stores := fun (a : Word) (q : Ppu) => s.writeByte a v = .done () { s with ppu := q }
    (reads 0xFF40 p.lcdc ∧ reads 0xFF42 p.scy ∧ reads 0xFF43 p.scx ∧ reads 0xFF44 (BitVec.ofNat 8 p.ly) ∧
      reads 0xFF45 p.lyc ∧ reads 0xFF46 p.dma ∧ reads 0xFF47 p.bgp ∧ reads 0xFF48 p.obp0 ∧ reads 0xFF49 p.obp1 ∧
      reads 0xFF4A p.wy ∧ reads 0xFF4B p.wx) ∧
    (∃ st, reads 0xFF41 st ∧ (∀ i, 3 ≤ i → st.getLsbD i = p.stat.getLsbD i) ∧ st.getLsbD 2 = p.coin ∧
      (p.mode = .hblank → st.toNat % 4 = 0) ∧ (p.mode = .vblank → st.toNat % 4 = 1) ∧
      (p.mode = .oam → st.toNat % 4 = 2) ∧ (p.mode = .transfer → st.toNat % 4 = 3)) ∧
    (stores 0xFF42 { p with scy := v } ∧ stores 0xFF43 { p with scx := v } ∧ stores 0xFF44 p ∧
      stores 0xFF45 { p with lyc := v } ∧ stores 0xFF47 { p with bgp := v } ∧ stores 0xFF48 { p with obp0 := v } ∧
      stores 0xFF49 { p with obp1 := v } ∧ stores 0xFF4A { p with wy := v } ∧ stores 0xFF4B { p with wx := v }) ∧
    (∃ st : Byte, (∀ i, 3 ≤ i → st.getLsbD i = v.getLsbD i) ∧ (∀ i, i < 3 → st.getLsbD i = p.stat.getLsbD i) ∧
      stores 0xFF41 { p with stat := st }) ∧
    (∃ t, s.writeByte 0xFF40 v = .done () t ∧ t = { s with ppu := t.ppu, out := t.out } ∧
      t.out.audio = s.out.audio ∧
      (p.lcdc.getLsbD 7 = true → v.getLsbD 7 = false →
        t.ppu = { p with
          lcdc := v, ly := 0, col := 0, acc := 0, mode := .hblank, coin := false, statLine := false, queue := []
          nextSprite := 0, frame := Vector.replicate 144 (Vector.replicate 160 0) } ∧
        t.out.frames = s.out.frames ++ [Vector.replicate 144 (Vector.replicate 160 0)]) ∧
      (p.lcdc.getLsbD 7 = false → v.getLsbD 7 = true →
        t.ppu = { p with lcdc := v, ly := 0, col := 0, acc := 0, mode := .oam } ∧
        t.out.frames = s.out.frames) ∧
      (p.lcdc.getLsbD 7 = v.getLsbD 7 → t.ppu = { p with lcdc := v } ∧ t.out.frames = s.out.frames))

/-- Rule R460: at most ten overlapping entries are kept, in ascending (X, index) order; with SPRITE_PICK = table
the ten of lowest index, with x the ten lowest in that order. -/
def Obligations.SpriteSelectionKeepsTen : Prop :=
  ∀ (p : Ppu) (pick : SpritePick),
    let y := fun i => (p.oam.read (4 * i)).toNat
    let before := fun i j =>
      (p.oam.read (4 * i + 1)).toNat < (p.oam.read (4 * j + 1)).toNat ∨
      (p.oam.read (4 * i + 1)).toNat = (p.oam.read (4 * j + 1)).toNat ∧ i < j
    let h := if p.lcdc.getLsbD 2 then 16 else 8
    let hit := fun i => i < 40 ∧ y i ≤ p.ly + 16 ∧ p.ly + 16 < y i + h
    let q := p.selection pick
    (p.lcdc.getLsbD 1 = false → q = []) ∧
    (p.lcdc.getLsbD 1 = true →
      q.length ≤ 10 ∧ q.Pairwise before ∧ (∀ i ∈ q, hit i) ∧
      (∀ i, hit i → i ∉ q → q.length = 10 ∧
        (pick = .table → ∀ j ∈ q, j < i) ∧ (pick = .x → ∀ j ∈ q, before j i)))

/-- Rule R476: a write of `v` to DMA stores it and copies the 160 bytes read from page `v` to the sprite table;
where the page cannot be read it raises. -/
def Obligations.OamCopyCopiesPage : Prop :=
  ∀ (s : State) (v : Byte), s.MapSound → s.MemoriesCanonical →
    ((∀ i, i < 160 → ∃ b, s.readByte (BitVec.ofNat 16 (256 * v.toNat + i)) = .ok b) →
      ∃ t, s.writeByte 0xFF46 v = .done () t ∧ t.ppu.dma = v ∧
        (∀ i, i < 160 →
          t.readByte (BitVec.ofNat 16 (0xFE00 + i)) = s.readByte (BitVec.ofNat 16 (256 * v.toNat + i))) ∧
        t = { s with ppu := { s.ppu with dma := v, oam := t.ppu.oam } }) ∧
    (∀ i c, i < 160 → (∀ k, k < i → ∃ b, s.readByte (BitVec.ofNat 16 (256 * v.toNat + k)) = .ok b) →
      s.readByte (BitVec.ofNat 16 (256 * v.toNat + i)) = .error c → ∃ t, s.writeByte 0xFF46 v = .fatal c t)

/-! ## Sound -/

/-- Rules R501 to R504: which ticks each step of the frame sequencer makes, and what a length tick does to the four
channels, an envelope tick to channels 1, 2 and 4, and a sweep tick, due or not, to channel 1. -/
def Obligations.FrameSequencerTicks : Prop :=
  let counts := fun (nrx4 : Byte) (length : Nat) (enabled : Bool) (length' : Nat) (enabled' : Bool) =>
    (nrx4.getLsbD 6 = false ∨ length = 0 → length' = length ∧ enabled' = enabled) ∧
    (nrx4.getLsbD 6 = true → 1 < length → length' = length - 1 ∧ enabled' = enabled) ∧
    (nrx4.getLsbD 6 = true → length = 1 → length' = 0 ∧ enabled' = false)
  let ramps := fun (nrx2 : Byte) (volume counter volume' counter' : Nat) =>
    let p := nrx2.toNat % 8
    (p = 0 ∨ counter = 0 → volume' = volume ∧ counter' = counter) ∧
    (p ≠ 0 → 1 < counter → volume' = volume ∧ counter' = counter - 1) ∧
    (p ≠ 0 → counter = 1 → volume ≤ 15 →
      counter' = p ∧ volume' = if nrx2.getLsbD 3 then min 15 (volume + 1) else volume - 1)
  ∀ u : Apu,
    (u.fsStep < 8 →
      u.fsTick =
        { (if u.fsStep = 0 ∨ u.fsStep = 4 then u.lengthTicks
           else if u.fsStep = 2 ∨ u.fsStep = 6 then u.lengthTicks.sweepTick
           else if u.fsStep = 7 then u.envelopeTicks
           else u) with fsStep := if u.fsStep = 7 then 0 else u.fsStep + 1 }) ∧
    (let v := u.lengthTicks
     counts u.regs.nr14 u.ch1.length u.ch1.enabled v.ch1.length v.ch1.enabled ∧
     counts u.regs.nr24 u.ch2.length u.ch2.enabled v.ch2.length v.ch2.enabled ∧
     counts u.regs.nr34 u.ch3.length u.ch3.enabled v.ch3.length v.ch3.enabled ∧
     counts u.regs.nr44 u.ch4.length u.ch4.enabled v.ch4.length v.ch4.enabled ∧
     v = { u with
       ch1 := { u.ch1 with length := v.ch1.length, enabled := v.ch1.enabled }
       ch2 := { u.ch2 with length := v.ch2.length, enabled := v.ch2.enabled }
       ch3 := { u.ch3 with length := v.ch3.length, enabled := v.ch3.enabled }
       ch4 := { u.ch4 with length := v.ch4.length, enabled := v.ch4.enabled } }) ∧
    (let v := u.envelopeTicks
     ramps u.regs.nr12 u.ch1.volume u.ch1.envCounter v.ch1.volume v.ch1.envCounter ∧
     ramps u.regs.nr22 u.ch2.volume u.ch2.envCounter v.ch2.volume v.ch2.envCounter ∧
     ramps u.regs.nr42 u.ch4.volume u.ch4.envCounter v.ch4.volume v.ch4.envCounter ∧
     v = { u with
       ch1 := { u.ch1 with volume := v.ch1.volume, envCounter := v.ch1.envCounter }
       ch2 := { u.ch2 with volume := v.ch2.volume, envCounter := v.ch2.envCounter }
       ch4 := { u.ch4 with volume := v.ch4.volume, envCounter := v.ch4.envCounter } }) ∧
    (let v := u.sweepTick
     let sp := u.regs.nr10.toNat / 16 % 8
     let sh := u.regs.nr10.toNat % 8
     let d := u.sweep.shadow / 2 ^ sh
     let new := if u.regs.nr10.getLsbD 3 then u.sweep.shadow - d else u.sweep.shadow + d
     (u.sweep.on = false ∨ sp = 0 → v = u) ∧
     (u.sweep.on = true → sp ≠ 0 → 1 < u.sweep.counter →
       v = { u with sweep := { u.sweep with counter := u.sweep.counter - 1 } }) ∧
     (u.sweep.on = true → sp ≠ 0 → u.sweep.counter ≤ 1 →
       (2047 < new →
         v = { u with sweep := { u.sweep with counter := sp }, ch1 := { u.ch1 with enabled := false } }) ∧
       (new ≤ 2047 → sh = 0 → v = { u with sweep := { u.sweep with counter := sp } }) ∧
       (new ≤ 2047 → sh ≠ 0 →
         v = { u with
           sweep := { u.sweep with counter := sp, shadow := new }
           regs := { u.regs with nr13 := v.regs.nr13, nr14 := v.regs.nr14 } } ∧
         v.regs.nr14.toNat % 8 * 256 + v.regs.nr13.toNat = new ∧
         v.regs.nr14.toNat / 8 = u.regs.nr14.toNat / 8)))

/-- The sound registers through the bus. Rule R491: a read answers the stored byte, NRx4 without bit 7, NR52 its stored
bits 7 to 4 with `enabled` of the four channels, wave RAM its bytes. Rule R492: a write stores; NRx1 also loads the
length; NR30 with bit 7 clear disables channel 3. Rule R493: NR52 switched off disables all channels, switched on
restarts the frame sequencer, and while the unit is off nothing of it advances. Rule R510: NRx4 with bit 7 set, the
unit on, triggers its channel, channel 1 with the new frequency; with the unit off or bit 7 clear it only stores. -/
def Obligations.SoundRegisterAccesses : Prop :=
  ∀ (s : State) (v : Byte), s.MapSound →
    let u := s.apu
    let r := u.regs
    let reads := fun (a : Word) (b : Byte) => s.readByte a = .ok b
    let stores := fun (a : Word) (w : Apu) => s.writeByte a v = .done () { s with apu := w }
    (reads 0xFF10 r.nr10 ∧ reads 0xFF11 r.nr11 ∧ reads 0xFF12 r.nr12 ∧ reads 0xFF13 r.nr13 ∧
      reads 0xFF14 (r.nr14 &&& 0x7F) ∧ reads 0xFF16 r.nr21 ∧ reads 0xFF17 r.nr22 ∧ reads 0xFF18 r.nr23 ∧
      reads 0xFF19 (r.nr24 &&& 0x7F) ∧ reads 0xFF1A r.nr30 ∧ reads 0xFF1B r.nr31 ∧ reads 0xFF1C r.nr32 ∧
      reads 0xFF1D r.nr33 ∧ reads 0xFF1E (r.nr34 &&& 0x7F) ∧ reads 0xFF20 r.nr41 ∧ reads 0xFF21 r.nr42 ∧
      reads 0xFF22 r.nr43 ∧ reads 0xFF23 (r.nr44 &&& 0x7F) ∧ reads 0xFF24 r.nr50 ∧ reads 0xFF25 r.nr51) ∧
    (∃ st, reads 0xFF26 st ∧ (∀ i, 4 ≤ i → st.getLsbD i = r.nr52.getLsbD i) ∧ st.getLsbD 0 = u.ch1.enabled ∧
      st.getLsbD 1 = u.ch2.enabled ∧ st.getLsbD 2 = u.ch3.enabled ∧ st.getLsbD 3 = u.ch4.enabled) ∧
    (∀ k, k < 16 → reads (BitVec.ofNat 16 (0xFF30 + k)) (u.wave.read k) ∧
      (s.MemoriesCanonical → ∃ m : Memory, (∀ j, m.read j = if j = k then v else u.wave.read j) ∧
        stores (BitVec.ofNat 16 (0xFF30 + k)) { u with wave := m })) ∧
    (stores 0xFF10 { u with regs := { r with nr10 := v } } ∧ stores 0xFF12 { u with regs := { r with nr12 := v } } ∧
      stores 0xFF13 { u with regs := { r with nr13 := v } } ∧ stores 0xFF17 { u with regs := { r with nr22 := v } } ∧
      stores 0xFF18 { u with regs := { r with nr23 := v } } ∧ stores 0xFF1C { u with regs := { r with nr32 := v } } ∧
      stores 0xFF1D { u with regs := { r with nr33 := v } } ∧ stores 0xFF21 { u with regs := { r with nr42 := v } } ∧
      stores 0xFF22 { u with regs := { r with nr43 := v } } ∧ stores 0xFF24 { u with regs := { r with nr50 := v } } ∧
      stores 0xFF25 { u with regs := { r with nr51 := v } }) ∧
    (let n := v.toNat % 64
     stores 0xFF11 { u with regs := { r with nr11 := v }, ch1 := { u.ch1 with length := 64 - n } } ∧
     stores 0xFF16 { u with regs := { r with nr21 := v }, ch2 := { u.ch2 with length := 64 - n } } ∧
     stores 0xFF1B { u with regs := { r with nr31 := v }, ch3 := { u.ch3 with length := 256 - v.toNat } } ∧
     stores 0xFF20 { u with regs := { r with nr41 := v }, ch4 := { u.ch4 with length := 64 - n } }) ∧
    (let w := { u with regs := { r with nr30 := v } }
     (v.getLsbD 7 = true → stores 0xFF1A w) ∧
     (v.getLsbD 7 = false → stores 0xFF1A { w with ch3 := { u.ch3 with enabled := false } })) ∧
    (∃ x : Byte, (∀ i, 4 ≤ i → x.getLsbD i = v.getLsbD i) ∧ (∀ i, i < 4 → x.getLsbD i = r.nr52.getLsbD i) ∧
      let w := { u with regs := { r with nr52 := x } }
      (r.nr52.getLsbD 7 = true → v.getLsbD 7 = false →
        stores 0xFF26 { w with
          ch1 := { u.ch1 with enabled := false }, ch2 := { u.ch2 with enabled := false }
          ch3 := { u.ch3 with enabled := false }, ch4 := { u.ch4 with enabled := false } }) ∧
      (r.nr52.getLsbD 7 = false → v.getLsbD 7 = true → stores 0xFF26 { w with fsAcc := 0, fsStep := 0 }) ∧
      (r.nr52.getLsbD 7 = v.getLsbD 7 → stores 0xFF26 w)) ∧
    (r.nr52.getLsbD 7 = false → ∀ clockHz n, u.advanceChannels clockHz n = u) ∧
    (let freq := v.toNat % 8 * 256 + r.nr13.toNat
     let r1 := { r with nr14 := v &&& 0x7F }
     let r2 := { r with nr24 := v &&& 0x7F }
     let r3 := { r with nr34 := v &&& 0x7F }
     let r4 := { r with nr44 := v &&& 0x7F }
     (r.nr52.getLsbD 7 = false ∨ v.getLsbD 7 = false →
       stores 0xFF14 { u with regs := r1 } ∧ stores 0xFF19 { u with regs := r2 } ∧
       stores 0xFF1E { u with regs := r3 } ∧ stores 0xFF23 { u with regs := r4 }) ∧
     (r.nr52.getLsbD 7 = true → v.getLsbD 7 = true →
       stores 0xFF14 { u with
         regs := r1
         ch1 :=
           { enabled := true, periodAcc := 0, length := 64 - r.nr11.toNat % 64, volume := r.nr12.toNat / 16
             envCounter := r.nr12.toNat % 8, dutyPos := 0 }
         sweep :=
           { shadow := freq, counter := r.nr10.toNat / 16 % 8
             on := decide (r.nr10.toNat / 16 % 8 ≠ 0 ∨ r.nr10.toNat % 8 ≠ 0) } } ∧
       stores 0xFF19 { u with
         regs := r2
         ch2 :=
           { enabled := true, periodAcc := 0, length := 64 - r.nr21.toNat % 64, volume := r.nr22.toNat / 16
             envCounter := r.nr22.toNat % 8, dutyPos := 0 } } ∧
       stores 0xFF1E { u with
         regs := r3
         ch3 := { enabled := r.nr30.getLsbD 7, periodAcc := 0, length := 256 - r.nr31.toNat, wavePos := 0 } } ∧
       stores 0xFF23 { u with
         regs := r4
         ch4 :=
           { enabled := true, periodAcc := 0, length := 64 - r.nr41.toNat % 64, volume := r.nr42.toNat / 16
             envCounter := r.nr42.toNat % 8, lfsr := 0x7FFF } }))

/-- Rules R520, R525, R530: a channel's counter takes the cycles, and while it is at the period or above the period is
subtracted and the duty step, wave position or noise register moves. Rule R531: the noise step. Rule R500: with the
unit on, the frame sequencer's ticks come first, then each channel at the frequency its registers then hold; that
CLOCK_HZ / 512 is rounded down is the model's choice (log entry 11). Rules R521, R525, R531: the channels' samples.
Rules R545, R493: each side is the master volume plus the routed samples, at most 67, and (0, 0) while the unit is
off. -/
def Obligations.ChannelsAdvanceSampleAndMix : Prop :=
  (∀ (c : Pulse) (freq n : Nat), freq < 2048 → c.dutyPos < 8 →
    let period := (2048 - freq) * 4
    (c.periodAcc + n < period → c.advance freq n = { c with periodAcc := c.periodAcc + n }) ∧
    (period ≤ c.periodAcc + n →
      c.advance freq n =
        Pulse.advance { c with periodAcc := c.periodAcc + n - period, dutyPos := (c.dutyPos + 1) % 8 } freq 0)) ∧
  (∀ (c : Wave) (freq n : Nat), freq < 2048 → c.wavePos < 32 →
    let period := (2048 - freq) * 2
    (c.periodAcc + n < period → c.advance freq n = { c with periodAcc := c.periodAcc + n }) ∧
    (period ≤ c.periodAcc + n →
      c.advance freq n =
        Wave.advance { c with periodAcc := c.periodAcc + n - period, wavePos := (c.wavePos + 1) % 32 } freq 0)) ∧
  (∀ (c : Noise) (nr43 : Byte) (n : Nat),
    let period := [8, 16, 32, 48, 64, 80, 96, 112].getD (nr43.toNat % 8) 0 * 2 ^ (nr43.toNat / 16)
    (c.periodAcc + n < period → c.advance nr43 n = { c with periodAcc := c.periodAcc + n }) ∧
    (period ≤ c.periodAcc + n →
      c.advance nr43 n =
        Noise.advance
          { c with periodAcc := c.periodAcc + n - period, lfsr := lfsrStep (nr43.getLsbD 3) c.lfsr } nr43 0)) ∧
  (∀ (narrow : Bool) (l : BitVec 15),
    let x := l.getLsbD 0 ^^ l.getLsbD 1
    (lfsrStep narrow l).getLsbD 14 = x ∧
    (∀ k, k < 14 → (lfsrStep narrow l).getLsbD k = if narrow = true ∧ k = 6 then x else l.getLsbD (k + 1))) ∧
  (∀ (u : Apu) (clockHz n : Nat), u.regs.nr52.getLsbD 7 = true → 512 ≤ clockHz →
    let total := u.fsAcc + n
    let w := Apu.fsTick^[total / (clockHz / 512)] { u with fsAcc := total % (clockHz / 512) }
    let freq := fun (hi lo : Byte) => hi.toNat % 8 * 256 + lo.toNat
    u.advanceChannels clockHz n =
      { w with
        ch1 := w.ch1.advance (freq w.regs.nr14 w.regs.nr13) n
        ch2 := w.ch2.advance (freq w.regs.nr24 w.regs.nr23) n
        ch3 := w.ch3.advance (freq w.regs.nr34 w.regs.nr33) n
        ch4 := w.ch4.advance w.regs.nr43 n }) ∧
  (∀ (c : Pulse) (nrx1 : Byte), c.sample nrx1 =
    if c.enabled then
      c.volume *
        ([[0, 0, 0, 0, 0, 0, 0, 1], [1, 0, 0, 0, 0, 0, 0, 1], [1, 0, 0, 0, 0, 1, 1, 1],
          [0, 1, 1, 1, 1, 1, 1, 0]].getD (nrx1.toNat / 64) []).getD c.dutyPos 0
    else 0) ∧
  (∀ (c : Wave) (wave : Memory) (nr32 : Byte), c.sample wave nr32 =
    let b := (wave.read (c.wavePos / 2)).toNat
    if c.enabled then
      (if c.wavePos % 2 = 0 then b / 16 else b % 16) / 2 ^ [4, 0, 1, 2].getD (nr32.toNat / 32 % 4) 0
    else 0) ∧
  (∀ c : Noise, c.sample = if c.enabled = true ∧ c.lfsr.getLsbD 0 = false then c.volume else 0) ∧
  (∀ u : Apu, u.InRange →
    let s1 := u.ch1.sample u.regs.nr11
    let s2 := u.ch2.sample u.regs.nr21
    let s3 := u.ch3.sample u.wave u.regs.nr32
    let s4 := u.ch4.sample
    let gate := fun k (n : Nat) => if u.regs.nr51.getLsbD k then n else 0
    (u.regs.nr52.getLsbD 7 = false → u.mix = (0, 0)) ∧
    (u.regs.nr52.getLsbD 7 = true →
      u.mix.1.toNat =
        u.regs.nr50.toNat / 16 % 8 + gate 4 s1 + gate 5 s2 + gate 6 s3 + gate 7 s4 ∧
      u.mix.2.toNat = u.regs.nr50.toNat % 8 + gate 0 s1 + gate 1 s2 + gate 2 s3 + gate 3 s4) ∧
    u.mix.1.toNat ≤ 67 ∧ u.mix.2.toNat ≤ 67)

/-- Rules R500, R550, R551, R36: the resampler emits a pair each time its counter reaches the threshold, each the mix
after the channels have advanced, subtracts the threshold, and ends below it. Each pair takes one draw, the host's
next or, past the end of its list, the free input (log entry 9): the threshold becomes `max(1, threshold + d)`, and the
counter's rest goes on from there. While no draw nudges it the threshold stays. -/
def Obligations.ResamplerEmitsAtThreshold : Prop :=
  ∀ (x : ApuIo) (clockHz n : Nat), 1 ≤ x.apu.resampleThreshold →
    let y := x.advance clockHz n
    let total := x.apu.resampleAcc + n
    let t := x.apu.resampleThreshold
    let draw : Throttle × HostPort :=
      match x.host.draws with
      | d :: rest => (d, { x.host with draws := rest })
      | [] => (Config.throttleDraw x.host.drawCount, { x.host with drawCount := x.host.drawCount + 1 })
    let next := match draw.1 with | .down => max 1 (t - 1) | .keep => t | .up => t + 1
    y.apu.resampleAcc < y.apu.resampleThreshold ∧
    (total < t → y.audio = x.audio ∧ y.host = x.host ∧ y.apu.resampleAcc = total ∧
      y.apu.resampleThreshold = t) ∧
    (∃ k, y.audio = x.audio ++ List.replicate k (x.apu.advanceChannels clockHz n).mix ∧ (t ≤ total ↔ 0 < k)) ∧
    (t ≤ total → total - t < next →
      y.apu.resampleThreshold = next ∧ y.apu.resampleAcc = total - t ∧ y.host = draw.2 ∧
      y.audio = x.audio ++ [(x.apu.advanceChannels clockHz n).mix]) ∧
    (t ≤ total → ∀ (z : ApuIo) (m : Nat),
      z.apu.resampleAcc + m = total - t → z.apu.resampleThreshold = next → z.host = draw.2 →
      let w := z.advance clockHz m
      y.apu.resampleThreshold = w.apu.resampleThreshold ∧ y.apu.resampleAcc = w.apu.resampleAcc ∧ y.host = w.host ∧
      y.audio.length + z.audio.length = x.audio.length + 1 + w.audio.length) ∧
    (∀ k, total / t ≤ k → x.host.draws = List.replicate k .keep →
      y.audio.length = x.audio.length + total / t ∧ y.apu.resampleAcc = total % t ∧
      y.apu.resampleThreshold = t)

/-! ## Cartridge, clock, bus, boot -/

/-- Rules R570 to R575, R578, R580 to R583: what a control write selects, and the latch of MBC3. MBC1 numbers are for
banks its own writes can reach (`rom_bank` at most 127, `bank2` at most 3). -/
def Obligations.BankSelectWrites : Prop :=
  ∀ (c : Cart) (a : Nat) (v : Byte), a < 0x8000 → c.romBank ≤ 127 → c.bank2 ≤ 3 →
    let field := fun n : Nat => if v.toNat % n = 0 then 1 else v.toNat % n
    let d := c.control a v
    (c.kind = .null → d = c) ∧
    (c.kind = .mbc1 ∨ c.kind = .mbc3 → a < 0x2000 → d = { c with ramEnable := decide (v.toNat % 16 = 10) }) ∧
    (c.kind = .mbc1 → 0x2000 ≤ a → a < 0x4000 →
      d = { c with
        romBank := if c.mode then field 32 else c.bank2 * 32 + field 32
        ramBank := if c.mode then c.bank2 else 0 }) ∧
    (c.kind = .mbc1 → 0x4000 ≤ a → a < 0x6000 →
      d = { c with
        bank2 := v.toNat % 4
        romBank := if c.mode then c.romBank % 32 else v.toNat % 4 * 32 + c.romBank % 32
        ramBank := if c.mode then v.toNat % 4 else 0 }) ∧
    (c.kind = .mbc1 → 0x6000 ≤ a →
      d = { c with
        mode := v.getLsbD 0
        romBank := if v.getLsbD 0 then c.romBank % 32 else c.bank2 * 32 + c.romBank % 32
        ramBank := if v.getLsbD 0 then c.bank2 else 0 }) ∧
    (c.kind = .mbc2 → a < 0x4000 →
      (a / 256 % 2 = 0 → d = { c with ramEnable := decide (v.toNat % 16 = 10) }) ∧
      (a / 256 % 2 = 1 → d = { c with romBank := field 16 })) ∧
    (c.kind = .mbc2 → 0x4000 ≤ a → d = c) ∧
    (c.kind = .mbc3 → 0x2000 ≤ a → a < 0x4000 → d = { c with romBank := field 128 }) ∧
    (c.kind = .mbc3 → 0x4000 ≤ a → a < 0x6000 →
      (v.toNat ≤ 3 → d = { c with ramBank := v.toNat, rtcSel := .ramBank v.toNat }) ∧
      (8 ≤ v.toNat → v.toNat ≤ 12 →
        ∃ q, [RtcReg.s, .m, .h, .dl, .dh][v.toNat - 8]? = some q ∧ d = { c with rtcSel := .reg q }) ∧
      (4 ≤ v.toNat ∧ v.toNat ≤ 7 ∨ 13 ≤ v.toNat → d = c)) ∧
    (c.kind = .mbc3 → 0x6000 ≤ a →
      (c.latchPrev = 0x00 ∧ v = 0x01 → d = { c with latched := c.rtc, latchPrev := v }) ∧
      (¬ (c.latchPrev = 0x00 ∧ v = 0x01) → d = { c with latchPrev := v }))

/-- Rule R593: what one second does to every clock, its fields counting to their masks when they hold a value that rule
R585 let a program write out of range, so that on a clock within its ranges the seconds since day 0 count up by one
modulo 512 days. Rule R592: the clock of an MBC3 that is not halted gets a second per CLOCK_HZ cycles, as the rule's
loop does; CLOCK_HZ = 0, where the loop has no end, is left out (log entry 11). -/
def Obligations.ClockCountsSeconds : Prop :=
  (∀ r : RtcRegs,
    let q := r.tickSecond
    let day := fun r : RtcRegs => r.dh.toNat % 2 * 256 + r.dl.toNat
    let secs := fun r : RtcRegs => ((day r * 24 + r.h.toNat) * 60 + r.m.toNat) * 60 + r.s.toNat
    let count := fun (b : Byte) (n : Nat) => BitVec.ofNat 8 ((b.toNat + 1) % n)
    (r.s.toNat % 64 ≠ 59 → q = { r with s := count r.s 64 }) ∧
    (r.s.toNat % 64 = 59 → r.m.toNat % 64 ≠ 59 → q = { r with s := 0, m := count r.m 64 }) ∧
    (r.s.toNat % 64 = 59 → r.m.toNat % 64 = 59 → r.h.toNat % 32 ≠ 23 →
      q = { r with s := 0, m := 0, h := count r.h 32 }) ∧
    (r.s.toNat % 64 = 59 → r.m.toNat % 64 = 59 → r.h.toNat % 32 = 23 →
      q.s = 0 ∧ q.m = 0 ∧ q.h = 0 ∧ day q = (day r + 1) % 512 ∧
      q.dh.getLsbD 7 = (r.dh.getLsbD 7 || decide (day r = 511)) ∧
      ∀ i, 1 ≤ i → i ≤ 6 → q.dh.getLsbD i = r.dh.getLsbD i) ∧
    (r.s.toNat < 60 → r.m.toNat < 60 → r.h.toNat < 24 →
      secs q = (secs r + 1) % (512 * 86400) ∧ q.s.toNat < 60 ∧ q.m.toNat < 60 ∧ q.h.toNat < 24 ∧
      q.dh.getLsbD 6 = r.dh.getLsbD 6 ∧
      q.dh.getLsbD 7 = (r.dh.getLsbD 7 || decide (secs r + 1 = 512 * 86400)))) ∧
  (∀ (c : Cart) (clockHz n : Nat),
    (c.kind ≠ .mbc3 ∨ c.rtc.dh.getLsbD 6 = true → c.rtcAdvance clockHz n = c) ∧
    (c.kind = .mbc3 → c.rtc.dh.getLsbD 6 = false →
      (c.rtcAcc + n < clockHz → c.rtcAdvance clockHz n = { c with rtcAcc := c.rtcAcc + n }) ∧
      (0 < clockHz → clockHz ≤ c.rtcAcc + n →
        c.rtcAdvance clockHz n =
          Cart.rtcAdvance { c with rtc := c.rtc.tickSecond, rtcAcc := c.rtcAcc + n - clockHz } clockHz 0))) ∧
  ∀ (s : State) (n : Nat), (s.advanceClocks n).cart = s.cart.rtcAdvance s.params.clockHz n

/-- Bus accesses by address under the default map. Rules R92, R93, R103, R631: an unmapped address raises
AccessViolation, a gap of the sound unit OutOfRange, and neither changes the state before the crash. Rules R33,
R34: IF and IE are read and stored whole. Rules R567, R568, R579, R585: what the cartridge's windows answer and
store; a write below 0x8000 is a control write. -/
def Obligations.BusAccessesByAddress : Prop :=
  ∀ (s : State) (a : Word) (v : Byte), s.MapSound →
    let n := a.toNat
    let c := s.cart
    let raises := fun e => s.readByte a = .error e ∧ s.writeByte a v = .fatal e s
    let rom := if n < 0x4000 then n else 0x4000 * c.romBank + (n - 0x4000)
    let ram := 0x2000 * c.ramBank + (n - 0xA000)
    let enabled := c.kind = .null ∨ c.ramEnable = true
    let stores := fun (i : Nat) (x : Byte) => s.MemoriesCanonical →
      ∃ m : Memory, (∀ k, m.read k = if k = i then x else c.cram.read k) ∧
        s.writeByte a v = .done () { s with cart := { c with cram := m } }
    ((0xE000 ≤ n ∧ n ≤ 0xFDFF ∨ 0xFEA0 ≤ n ∧ n ≤ 0xFEFF ∨ 0xFF01 ≤ n ∧ n ≤ 0xFF03 ∨ 0xFF08 ≤ n ∧ n ≤ 0xFF0E ∨
        0xFF4C ≤ n ∧ n ≤ 0xFF4F ∨ 0xFF51 ≤ n ∧ n ≤ 0xFF7F ∨ n = 0xFF50 ∧ s.boot = none) →
      raises .accessViolation) ∧
    (n = 0xFF15 ∨ n = 0xFF1F ∨ 0xFF27 ≤ n ∧ n ≤ 0xFF2F → raises .outOfRange) ∧
    (n = 0xFF0F → s.readByte a = .ok s.ifReg ∧ s.writeByte a v = .done () { s with ifReg := v }) ∧
    (n = 0xFFFF → s.readByte a = .ok s.ieReg ∧ s.writeByte a v = .done () { s with ieReg := v }) ∧
    (n < 0x8000 → s.boot = none ∨ s.bootMapped = false ∨ 0x100 ≤ n →
      (rom < c.romLen → s.readByte a = .ok (c.rom.read rom)) ∧
      (c.romLen ≤ rom → s.readByte a = .error .outOfRange) ∧
      s.writeByte a v = .done () { s with cart := c.control n v }) ∧
    (0xA000 ≤ n → n < 0xC000 →
      (¬ enabled → s.readByte a = .ok 0xFF ∧ s.writeByte a v = .done () s) ∧
      (enabled → c.kind = .null ∨ c.kind = .mbc1 ∨ c.kind = .mbc3 ∧ (∃ b, c.rtcSel = .ramBank b) →
        (ram < c.cramLen → s.readByte a = .ok (c.cram.read ram) ∧ stores ram v) ∧
        (c.cramLen ≤ ram → raises .outOfRange)) ∧
      (enabled → c.kind = .mbc2 →
        (n - 0xA000 < 512 → s.readByte a = .ok (0xF0 ||| c.cram.read (n - 0xA000)) ∧
          stores (n - 0xA000) (v &&& 0x0F)) ∧
        (512 ≤ n - 0xA000 → raises .outOfRange)) ∧
      (enabled → c.kind = .mbc3 →
        let clock := fun (q : RtcReg) (latched : Byte) (live : RtcRegs) => c.rtcSel = .reg q →
          s.readByte a = .ok latched ∧ s.writeByte a v = .done () { s with cart := { c with rtc := live } }
        clock .s c.latched.s { c.rtc with s := v &&& 0x3F } ∧ clock .m c.latched.m { c.rtc with m := v &&& 0x3F } ∧
        clock .h c.latched.h { c.rtc with h := v &&& 0x1F } ∧ clock .dl c.latched.dl { c.rtc with dl := v } ∧
        clock .dh c.latched.dh { c.rtc with dh := v &&& 0xC1 }))

/-- Rules R600 to R602, R105: while mapped, the boot ROM is read at 0x0000 to 0x00FF and refuses writes; the first
write of 0xFF50 hands those addresses to the cartridge, a later one does nothing; 0xFF50 cannot be read. -/
def Obligations.BootOffUnmapsBootRom : Prop :=
  ∀ (s : State) (img : Image) (v : Byte), s.MapSound → s.boot = some img →
    s.readByte 0xFF50 = .error .accessViolation ∧
    (s.bootMapped = true →
      (∀ a : Word, a.toNat < 0x100 → s.readByte a = img.bytes.readWithin img.len a.toNat ∧
        s.writeByte a v = .fatal .accessViolation s) ∧
      ∃ t, s.writeByte 0xFF50 v = .done () t ∧ t.MapSound ∧
        t = { s with bootMapped := false, busMap := t.busMap } ∧
        (∀ a : Word, a.toNat < 0x100 → t.readByte a = s.cart.rom.readWithin s.cart.romLen a.toNat) ∧
        (∀ a : Word, 0x100 ≤ a.toNat → t.readByte a = s.readByte a)) ∧
    (s.bootMapped = false → s.writeByte 0xFF50 v = .done () s)

/-- Rules R561, R563, R564, R611: construction fails exactly on a short image, an unsupported controller type or, off
MBC2, an invalid RAM code, and (rule R91) on a BusMap with an invalid range; else the machine runs with the BusMap,
the parameters and the host's queues supplied (R613), and every part of its state is that of the ResetState
supplied (R84, R612) or, with none, of the preset the boot image selects (R85 to R89). Of STAT without a boot
image only what R86 gives is stated (log entry 4). The model's own: that an invalid range fails after the header
check, and that cartridge RAM is handed on beside the ResetState (log entry 22); and that `resampleThreshold`, a
quotient that R88 leaves undefined for SampleRate = 0, is 0 there (log entry 24). -/
def Obligations.ConstructionReadsHeader : Prop :=
  ∀ h : HostSupply,
    let ty := (h.cartImage.bytes.read 0x147).toNat
    let code := (h.cartImage.bytes.read 0x149).toNat
    let size := if ty = 5 ∨ ty = 6 then 512 else [0, 2048, 8192, 32768].getD code 0
    let good := 0x14A ≤ h.cartImage.len ∧
      (ty ∈ [0, 1, 2, 3, 0x0F, 0x10, 0x11, 0x12, 0x13] ∧ code ≤ 3 ∨ ty = 5 ∨ ty = 6)
    let valid := ∀ c ∈ h.busMap, c.lo ≤ c.hi ∧ c.hi ≤ 65535
    let clear : Layer := Vector.replicate 144 (Vector.replicate 160 none)
    (¬ good → construct h = .error .malformedCartridge) ∧
    (good → ¬ valid → construct h = .error .outOfRange) ∧
    (good → valid → ∃ s, construct h = .ok s ∧
      (s.run = .running ∧ s.params = h.params ∧ s.boot = h.bootImage ∧ s.MapIs h.busMap ∧ s.host = h.host ∧
        s.out.frames = [] ∧ s.out.audio = [] ∧
        s.cart.rom = h.cartImage.bytes ∧ s.cart.romLen = h.cartImage.len ∧ s.cart.cramLen = size ∧
        (∀ k, k < size → s.cart.cram.read k =
          if ty = 5 ∨ ty = 6 then h.cram.getD k 0 &&& 0x0F else h.cram.getD k 0) ∧
        (s.cart.kind = .null ↔ ty = 0) ∧ (s.cart.kind = .mbc1 ↔ ty = 1 ∨ ty = 2 ∨ ty = 3) ∧
        (s.cart.kind = .mbc2 ↔ ty = 5 ∨ ty = 6)) ∧
      (∀ r, h.resetState = some r →
        s.regs = r.regs ∧ s.ime = r.ime ∧ s.halt = r.halt ∧ s.stop = r.stop ∧ s.ifReg = r.ifReg ∧
        s.ieReg = r.ieReg ∧ s.wram = r.wram ∧ s.hram = r.hram ∧ s.bootMapped = r.bootMapped ∧
        s.joypad = r.joypad ∧ s.timer = r.timer ∧ s.ppu = r.ppu ∧ s.apu = r.apu ∧
        s.cart = { s.cart with
          romBank := r.bank.romBank, ramBank := r.bank.ramBank, ramEnable := r.bank.ramEnable
          bank2 := r.bank.bank2, mode := r.bank.mode, rtc := r.bank.rtc, latched := r.bank.latched
          rtcSel := r.bank.rtcSel, latchPrev := r.bank.latchPrev, rtcAcc := r.bank.rtcAcc }) ∧
      (h.resetState = none →
        s.ime = false ∧ s.halt = false ∧ s.stop = false ∧ s.ieReg = 0 ∧
        s.wram = [] ∧ s.hram = [] ∧ s.ppu.vram = [] ∧ s.ppu.oam = [] ∧ s.apu.wave = [] ∧
        s.joypad.pressed = ⟨false, false, false, false, false, false, false, false⟩ ∧
        s.timer.divAcc = 0 ∧ s.timer.timaAcc = 0 ∧
        s.ppu.acc = 0 ∧ s.ppu.ly = 0 ∧ s.ppu.col = 0 ∧ s.ppu.coin = false ∧ s.ppu.statLine = false ∧
        s.ppu.queue = [] ∧ s.ppu.nextSprite = 0 ∧ s.ppu.bg = clear ∧ s.ppu.win = clear ∧
        s.ppu.sprAbove = clear ∧ s.ppu.sprBelow = clear ∧
        s.ppu.frame = Vector.replicate 144 (Vector.replicate 160 0) ∧
        s.ppu.mode = (if s.ppu.lcdc.getLsbD 7 then .oam else .hblank) ∧
        s.apu.fsAcc = 0 ∧ s.apu.fsStep = 0 ∧ s.apu.resampleAcc = 0 ∧
        s.apu.resampleThreshold = h.params.clockHz / h.params.sampleRate ∧
        s.apu.ch1 =
          { enabled := h.bootImage.isNone, periodAcc := 0, length := 0, volume := 0, envCounter := 0
            dutyPos := 0 } ∧
        s.apu.sweep = { shadow := 0, counter := 0, on := false } ∧
        s.apu.ch2 =
          { enabled := false, periodAcc := 0, length := 0, volume := 0, envCounter := 0, dutyPos := 0 } ∧
        s.apu.ch3 = { enabled := false, periodAcc := 0, length := 0, wavePos := 0 } ∧
        s.apu.ch4 =
          { enabled := false, periodAcc := 0, length := 0, volume := 0, envCounter := 0, lfsr := 0x7FFF } ∧
        s.cart.romBank = 1 ∧ s.cart.ramBank = 0 ∧ s.cart.ramEnable = false ∧ s.cart.bank2 = 0 ∧
        s.cart.mode = false ∧ s.cart.rtc = ⟨0, 0, 0, 0, 0⟩ ∧ s.cart.latched = ⟨0, 0, 0, 0, 0⟩ ∧
        s.cart.rtcSel = .ramBank 0 ∧ s.cart.latchPrev = 0xFF ∧ s.cart.rtcAcc = 0 ∧
        (h.bootImage.isSome = true →
          s.regs = ⟨0, 0, 0, 0, 0, 0, 0, 0, 0, 0⟩ ∧ s.ifReg = 0 ∧ s.bootMapped = true ∧ s.joypad.p1 = 0 ∧
          s.timer = ⟨0, 0, 0, 0, 0, 0⟩ ∧
          s.ppu.lcdc = 0 ∧ s.ppu.stat = 0 ∧ s.ppu.scy = 0 ∧ s.ppu.scx = 0 ∧ s.ppu.lyc = 0 ∧ s.ppu.dma = 0 ∧
          s.ppu.bgp = 0 ∧ s.ppu.obp0 = 0 ∧ s.ppu.obp1 = 0 ∧ s.ppu.wy = 0 ∧ s.ppu.wx = 0 ∧
          s.apu.regs = ⟨0, 0, 0, 0, 0, 0, 0, 0, 0, 0, 0, 0, 0, 0, 0, 0, 0, 0, 0, 0, 0⟩) ∧
        (h.bootImage = none →
          s.regs =
            { a := 0x01, f := 0xB0, b := 0x00, c := 0x13, d := 0x00, e := 0xD8, h := 0x01, l := 0x4D
              sp := 0xFFFE, pc := 0x0100 } ∧
          s.ifReg = 0x01 ∧ s.joypad.p1 = 0x30 ∧ s.timer = ⟨0xAB, 0, 0, 0, 0, 0⟩ ∧
          s.ppu.lcdc = 0x91 ∧ s.ppu.stat &&& 0x78 = 0 ∧ s.ppu.scy = 0 ∧ s.ppu.scx = 0 ∧ s.ppu.lyc = 0 ∧
          s.ppu.dma = 0xFF ∧ s.ppu.bgp = 0xFC ∧ s.ppu.obp0 = 0xFF ∧ s.ppu.obp1 = 0xFF ∧ s.ppu.wy = 0 ∧
          s.ppu.wx = 0 ∧
          s.apu.regs =
            { nr10 := 0x80, nr11 := 0xBF, nr12 := 0xF3, nr13 := 0xFF, nr14 := 0x3F, nr21 := 0x3F, nr22 := 0x00
              nr23 := 0xFF, nr24 := 0x3F, nr30 := 0x7F, nr31 := 0xFF, nr32 := 0x9F, nr33 := 0xFF, nr34 := 0x3F
              nr41 := 0xFF, nr42 := 0x00, nr43 := 0x00, nr44 := 0x3F, nr50 := 0x77, nr51 := 0xF3
              nr52 := 0x80 })))

/-! ## Invariants -/

/-- The state after reset is sound (rules R22, R48, R61, R62, R74 to R81, R86 to R89, R100). -/
def Obligations.ResetStateIsSound : Prop := State.reset.Sound ∧ State.reset.run = .running

/-- Rule R22: "the bottom 4 bits are always zero", through every step. -/
def Obligations.StepKeepsFlagNibbleZero : Prop :=
  ∀ s t : State, s.FlagNibbleZero → step s = .next t → t.Alive → t.FlagNibbleZero

/-- Every step keeps every byte array in canonical form, so that equal memories are equal data. -/
def Obligations.StepKeepsMemoriesCanonical : Prop :=
  ∀ s t : State, s.MemoriesCanonical → step s = .next t → t.Alive → t.MemoriesCanonical

/-- Rules R48, R61, R62, R64 to R68, R74 to R76, R78, R79, R81, with R472, R492, R570, R578 and R585 for what the display
off, the sound registers, the bank numbers and the clock registers then hold: every step keeps every unit within
its ranges. The bound of `fs_acc` (R76) and of `rtc_acc` (R81) is for a CLOCK_HZ whose threshold is positive; that
the bound of `fs_acc` is CLOCK_HZ / 512 rounded down, where CLOCK_HZ is no multiple of 512, is the model's choice
(log entry 11). -/
def Obligations.StepKeepsUnitsInRange : Prop :=
  ∀ s t : State, s.UnitsInRange → step s = .next t → t.Alive → t.UnitsInRange

/-- Rules R101, R102, R560, R601: whatever the BusMap, every step keeps it and the parameters, the boot image, the ROM
content and the controller kind. The boot ROM once unmapped stays so; where a step unmaps it, the step's instruction
stores to, or its interrupt entry pushes to, an address that reaches BOOTOFF. -/
def Obligations.StepKeepsMapAndImages : Prop :=
  ∀ (m : List BusClaim) (s t : State), s.MapIs m → step s = .next t → t.Alive →
    t.MapIs m ∧ t.params = s.params ∧ t.boot = s.boot ∧ t.cart.rom = s.cart.rom ∧
    t.cart.romLen = s.cart.romLen ∧ t.cart.cramLen = s.cart.cramLen ∧ t.cart.kind = s.cart.kind ∧
    (s.bootMapped = false → t.bootMapped = false) ∧
    (t.bootMapped ≠ s.bootMapped →
      s.boot.isSome = true ∧ ∃ a, s.target a = some (.bootOff, 0xFF50) ∧
        let p := s.hostBoundary.2.pollJoypad
        ((p.halt || p.stop) = false ∧ ∃ i, p.fetch = .ok i ∧ a ∈ storeAddresses i p) ∨
        (∃ (u : State) (k : Nat), k < 5 ∧ t = u.takeInterrupt k ∧ u.busMap = s.busMap ∧ u.bootMapped = s.bootMapped ∧
          a ∈ [u.regs.sp - 1, u.regs.sp - 2]))
end

