-- ==== Sys2Proof/Laws/Memory.lean ====
section
/-! SUPPORT. Laws of the byte arrays: a read after a write, the canonical form and its uniqueness. -/

namespace Sys2Proof.Machine

@[simp] theorem Memory.read_nil (i : Nat) : Memory.read [] i = 0 := rfl

theorem Memory.above_mono {j k : Nat} (h : j ≤ k) :
    ∀ m : Memory, Memory.above k m = true → Memory.above j m = true
  | [], _ => rfl
  | (i, _) :: rest, ha => by
    simp only [Memory.above, Bool.and_eq_true, decide_eq_true_eq] at ha ⊢
    exact ⟨by omega, Memory.above_mono h rest ha.2⟩

/-- An index that is not above the bound of a list is not listed. -/
theorem Memory.read_of_above {k i : Nat} (h : i ≤ k) :
    ∀ m : Memory, Memory.above k m = true → m.read i = 0
  | [], _ => rfl
  | (j, _) :: rest, ha => by
    simp only [Memory.above, Bool.and_eq_true, decide_eq_true_eq] at ha
    have hj : ¬ j = i := by omega
    simp only [Memory.read, if_neg hj]
    exact Memory.read_of_above h rest ha.2

theorem Memory.above_write {k i : Nat} (hk : k < i) (v : Byte) :
    ∀ m : Memory, Memory.above k m = true → Memory.above k (m.write i v) = true
  | [], _ => by
    unfold Memory.write; split_ifs <;> simp [Memory.above, hk]
  | (j, w) :: rest, ha => by
    have ih := Memory.above_write hk v rest
    simp only [Memory.above, Bool.and_eq_true, decide_eq_true_eq] at ha
    unfold Memory.write
    split_ifs <;> simp_all [Memory.above]

/-- Every write keeps the canonical form. -/
theorem Memory.write_wf (i : Nat) (v : Byte) :
    ∀ m : Memory, m.wf = true → (m.write i v).wf = true
  | [], _ => by
    unfold Memory.write; split_ifs with hv <;> simp_all [Memory.wf, Memory.above]
  | (j, w) :: rest, hw => by
    have ih := Memory.write_wf i v rest
    simp only [Memory.wf, Bool.and_eq_true, decide_eq_true_eq] at hw
    unfold Memory.write
    split_ifs with h1 h2 h3 h4
    · simp_all [Memory.wf]
    · have := Memory.above_mono (Nat.le_of_lt h1) rest hw.1.2
      simp_all [Memory.wf, Memory.above]
    · exact hw.2
    · simp_all [Memory.wf]
    · have := Memory.above_write (by omega : j < i) v rest hw.1.2
      simp_all [Memory.wf]

/-- A write leaves every other index alone. -/
theorem Memory.read_write_other {i j : Nat} (h : j ≠ i) (v : Byte) :
    ∀ m : Memory, (m.write i v).read j = m.read j
  | [] => by
    have h' : ¬ i = j := fun e => h e.symm
    unfold Memory.write; split_ifs <;> simp [Memory.read, h']
  | (k, w) :: rest => by
    have ih := Memory.read_write_other h v rest
    have h' : ¬ i = j := fun e => h e.symm
    unfold Memory.write
    split_ifs with h1 h2 h3 h4
    · rfl
    · simp [Memory.read, h']
    · subst h3; simp [Memory.read, h']
    · subst h3; simp [Memory.read, h']
    · simp only [Memory.read, ih]

/-- A read after a write to the same index gives the value written. -/
theorem Memory.read_write_same (i : Nat) (v : Byte) :
    ∀ m : Memory, m.wf = true → (m.write i v).read i = v
  | [], _ => by
    unfold Memory.write; split_ifs with hv <;> simp_all [Memory.read]
  | (k, w) :: rest, hw => by
    have ih := Memory.read_write_same i v rest
    simp only [Memory.wf, Bool.and_eq_true, decide_eq_true_eq] at hw
    unfold Memory.write
    split_ifs with h1 h2 h3 h4
    · have hk : ¬ k = i := by omega
      subst h2
      simp only [Memory.read, if_neg hk]
      exact Memory.read_of_above (Nat.le_of_lt h1) rest hw.1.2
    · simp [Memory.read]
    · subst h3 h4; exact Memory.read_of_above (Nat.le_refl _) rest hw.1.2
    · simp [Memory.read]
    · have hk : ¬ k = i := fun e => h3 e.symm
      simp only [Memory.read, if_neg hk]
      exact ih hw.2

/-- Writing what is already there changes nothing. -/
theorem Memory.write_read (m : Memory) (h : m.wf = true) (i : Nat) : m.write i (m.read i) = m := by
  induction m with
  | nil => simp [Memory.write]
  | cons p rest ih =>
    obtain ⟨k, w⟩ := p
    simp only [Memory.wf, Bool.and_eq_true, decide_eq_true_eq] at h
    by_cases hk : k = i
    · subst hk; rw [Memory.read, if_pos rfl, Memory.write, if_neg (Nat.lt_irrefl _), if_pos rfl, if_neg h.1.1]
    · rw [Memory.read, if_neg hk, Memory.write]
      split_ifs with h1 h2 h3 h4
      · rfl
      · exact absurd (Memory.read_of_above (Nat.le_of_lt h1) rest h.1.2) h2
      · exact absurd h3.symm hk
      · exact absurd h3.symm hk
      · rw [ih h.2]

theorem Memory.ofBytes_wf : ∀ (bs : List Byte) (i : Nat), (Memory.ofBytes i bs).wf = true
  | [], _ => rfl
  | v :: rest, i => Memory.write_wf i v _ (Memory.ofBytes_wf rest (i + 1))

theorem Memory.read_ofBytes : ∀ (bs : List Byte) (i k : Nat), k < bs.length →
    (Memory.ofBytes i bs).read (i + k) = bs.getD k 0
  | v :: rest, i, 0, _ => by
    simpa [Memory.ofBytes] using Memory.read_write_same i v _ (Memory.ofBytes_wf rest (i + 1))
  | v :: rest, i, k + 1, h => by
    have ih := Memory.read_ofBytes rest (i + 1) k (by simpa using h)
    rw [Memory.ofBytes, Memory.read_write_other (by omega), show i + (k + 1) = i + 1 + k by omega, ih]
    simp

/-- Two canonical arrays that read alike everywhere are the same data. -/
theorem Memory.ext_of_wf : ∀ m n : Memory, m.wf = true → n.wf = true → (∀ i, m.read i = n.read i) → m = n
  | [], [], _, _, _ => rfl
  | [], (k, w) :: rest, _, hn, h => by
    simp only [Memory.wf, Bool.and_eq_true, decide_eq_true_eq] at hn
    have := h k
    simp [Memory.read] at this
    exact absurd this.symm hn.1.1
  | (k, w) :: rest, [], hm, _, h => by
    simp only [Memory.wf, Bool.and_eq_true, decide_eq_true_eq] at hm
    have := h k
    simp [Memory.read] at this
    exact absurd this hm.1.1
  | (k, v) :: m, (j, w) :: n, hm, hn, h => by
    simp only [Memory.wf, Bool.and_eq_true, decide_eq_true_eq] at hm hn
    have hk := h k
    have hj := h j
    have e : k = j := by
      rcases Nat.lt_trichotomy k j with hlt | he | hlt
      · have hne : ¬ j = k := by omega
        simp only [Memory.read, if_neg hne, if_true] at hk
        rw [Memory.read_of_above (Nat.le_of_lt hlt) n hn.1.2] at hk
        exact absurd hk hm.1.1
      · exact he
      · have hne : ¬ k = j := by omega
        simp only [Memory.read, if_neg hne, if_true] at hj
        rw [Memory.read_of_above (Nat.le_of_lt hlt) m hm.1.2] at hj
        exact absurd hj.symm hn.1.1
    subst e
    simp only [Memory.read, if_true] at hk
    subst hk
    have hrest : ∀ i, Memory.read m i = Memory.read n i := by
      intro i
      by_cases hi : k = i
      · subst hi
        rw [Memory.read_of_above (Nat.le_refl _) m hm.1.2, Memory.read_of_above (Nat.le_refl _) n hn.1.2]
      · simpa [Memory.read, hi] using h i
    rw [Memory.ext_of_wf m n hm.2 hn.2 hrest]

end Sys2Proof.Machine
end

