-- ==== Sys2Proof/Laws/Bus.lean ====
section
/-! SUPPORT. Laws of the bus: what an access depends on, everything a write can change, what a store to a plain
array does, and that every write keeps the arrays canonical. -/

namespace Sys2Proof.Machine

/-! ## Ownership -/

/-- `owner` is the unit an access goes to. -/
theorem State.owner_eq (s : State) (a : Word) : s.owner a = (s.target a).map (·.1) := by
  unfold State.owner State.target
  rw [Option.map_map]
  rfl

/-- A claim by which a unit answers at its own addresses leaves the address as it is. -/
theorem BusClaim.target_direct {lo hi a : Nat} (u : BusUnit) (h : lo ≤ a) :
    (BusClaim.direct lo hi u).target a = (u, a) := by
  simp only [BusClaim.target, BusClaim.direct, Prod.mk.injEq, true_and]
  omega

/-- Under a table of such claims every access reaches its unit at the bus address. -/
theorem target_direct {s : State} (h : ∀ c ∈ s.busMap, c.base = c.lo) (a : Word) :
    s.target a = (s.owner a).map fun u => (u, a.toNat) := by
  unfold State.target State.owner
  rw [Option.map_map]
  cases hc : claimAt s.busMap a.toNat with
  | none => rfl
  | some c =>
    have hm := h c (List.mem_of_find?_eq_some hc)
    have hp := List.find?_some hc
    simp only [decide_eq_true_eq] at hp
    simp only [Option.map_some, Function.comp, BusClaim.target, hm, Option.some.injEq, Prod.mk.injEq, true_and]
    omega

/-- The default map routes every access to its unit at the bus address, whatever the overlay does. -/
theorem busTable_direct (bootPresent bootMapped : Bool) :
    ∀ c ∈ busTable defaultUnits bootPresent bootMapped, c.base = c.lo := by
  cases bootPresent <;> cases bootMapped <;> decide

/-! ## Registers play no part in an access -/

/-- The state with the CPU registers and the cycle report replaced. -/
def State.withCpu (s : State) (r : Regs) (n : Nat) : State := { s with regs := r, cyc := n }

@[simp] theorem State.withCpu_regs (s : State) (r : Regs) (n : Nat) : (s.withCpu r n).regs = r := rfl

@[simp] theorem State.withCpu_self (s : State) : s.withCpu s.regs s.cyc = s := rfl

@[simp] theorem State.withCpu_withCpu (s : State) (r q : Regs) (n m : Nat) :
    (s.withCpu r n).withCpu q m = s.withCpu q m := rfl

@[simp] theorem State.withCpu_boot (s : State) (r : Regs) (n : Nat) : (s.withCpu r n).boot = s.boot := rfl

@[simp] theorem State.withCpu_bootMapped (s : State) (r : Regs) (n : Nat) :
    (s.withCpu r n).bootMapped = s.bootMapped := rfl

@[simp] theorem State.target_withCpu (s : State) (r : Regs) (n : Nat) (a : Word) :
    (s.withCpu r n).target a = s.target a := rfl

@[simp] theorem State.readByte_withCpu (s : State) (r : Regs) (n : Nat) (a : Word) :
    (s.withCpu r n).readByte a = s.readByte a := rfl

/-- An access carried over a change of its state. -/
def Acc.mapState {α : Type} (f : State → State) : Acc α → Acc α
  | .done v s => .done v (f s)
  | .fatal c s => .fatal c (f s)

theorem State.oamCopy_withCpu (v : Byte) (r : Regs) (k : Nat) : ∀ (n i : Nat) (s : State),
    State.oamCopy v n i (s.withCpu r k) = (State.oamCopy v n i s).mapState fun t => t.withCpu r k
  | 0, _, _ => rfl
  | n + 1, i, s => by
    simp only [State.oamCopy, State.readByte_withCpu]
    cases s.readByte (BitVec.ofNat 16 (256 * v.toNat + i)) with
    | error c => rfl
    | ok b =>
      exact State.oamCopy_withCpu v r k n (i + 1) { s with ppu := { s.ppu with oam := s.ppu.oam.write i b } }

theorem State.writePpuReg_withCpu (s : State) (r : Regs) (k : Nat) (q : PpuReg) (v : Byte) :
    (s.withCpu r k).writePpuReg q v = (s.writePpuReg q v).mapState fun t => t.withCpu r k := by
  cases q <;> first
    | rfl
    | exact State.oamCopy_withCpu v r k 160 0 (s.withPpuIo (s.ppuIo.writeReg .dma v))

/-- A write does the same whatever the CPU registers hold, and leaves them alone. -/
theorem State.writeByte_withCpu (s : State) (r : Regs) (k : Nat) (a : Word) (v : Byte) :
    (s.withCpu r k).writeByte a v = (s.writeByte a v).mapState fun t => t.withCpu r k := by
  have ho : (s.withCpu r k).target a = s.target a := rfl
  unfold State.writeByte
  rw [ho]
  rcases s.target a with - | ⟨u, n⟩
  · rfl
  · cases u with
    | bootRom => simp only [State.unitWrite, State.writeBootUnit, State.withCpu_boot]; split <;> rfl
    | bootOff =>
      simp only [State.unitWrite, State.writeBootUnit, State.withCpu_boot]
      split
      · rfl
      · by_cases hb : s.bootMapped = true <;>
          simp only [State.writeBootOff, State.withCpu_bootMapped, hb, if_true] <;> rfl
      · rfl
    | cart =>
      simp only [State.unitWrite]
      have hc : (s.withCpu r k).cart = s.cart := rfl
      rw [hc]
      cases s.cart.writeAt n v <;> rfl
    | display =>
      simp only [State.unitWrite, State.writePpu]
      split_ifs
      · rfl
      · rfl
      · cases ppuRegAt n with
        | none => rfl
        | some q => exact s.writePpuReg_withCpu r k q v
    | workRam => simp only [State.unitWrite]; split_ifs <;> rfl
    | highRam => simp only [State.unitWrite]; split_ifs <;> rfl
    | joypad => simp only [State.unitWrite]; split_ifs <;> rfl
    | timer => simp only [State.unitWrite]; cases timerRegAt n <;> rfl
    | cpuCore => simp only [State.unitWrite]; split_ifs <;> rfl
    | sound =>
      simp only [State.unitWrite]
      have hc : (s.withCpu r k).apu = s.apu := rfl
      rw [hc]
      cases s.apu.writeAt n v <;> rfl
    | openBus => rfl

/-! ## What a write can change -/

/-- The parts of the machine a bus write can reach, taken from `t`; everything else from `s`. -/
def State.withBusParts (s t : State) : State :=
  { s with
    ifReg := t.ifReg, ieReg := t.ieReg, busMap := t.busMap, wram := t.wram, hram := t.hram
    bootMapped := t.bootMapped, joypad := t.joypad, timer := t.timer, ppu := t.ppu, apu := t.apu
    cart := t.cart, out := t.out }

theorem State.oamCopy_frame (v : Byte) : ∀ (n i : Nat) (s t : State),
    State.oamCopy v n i s = .done () t → ∃ m, t = { s with ppu := { s.ppu with oam := m } }
  | 0, _, s, t, h => by cases h; exact ⟨s.ppu.oam, rfl⟩
  | n + 1, i, s, t, h => by
    unfold State.oamCopy at h
    split at h
    · cases h
    · obtain ⟨m, rfl⟩ := State.oamCopy_frame v n (i + 1) _ t h
      exact ⟨m, rfl⟩

theorem State.writePpuReg_frame (s t : State) (q : PpuReg) (v : Byte) (h : s.writePpuReg q v = .done () t) :
    t = { s with ppu := t.ppu, ifReg := t.ifReg, out := t.out } := by
  cases q <;> first
    | (cases h; rfl)
    | (obtain ⟨m, rfl⟩ := State.oamCopy_frame v 160 0 _ t h; rfl)

/-- A write to a boot unit completes only with a boot image, in the unit's range, as the access `w` does. -/
theorem State.writeBootUnit_done {s t : State} {b : Bool} {w : Access} (h : s.writeBootUnit b w = .done () t) :
    s.boot.isSome = true ∧ b = true ∧ w = .done () t := by
  unfold State.writeBootUnit at h
  split at h
  · cases h
  · exact ⟨‹_›, rfl, h⟩
  · cases h

/-- The boot ROM completes no write (rule R105). -/
theorem State.writeBootRom_refused (s t : State) (b : Bool) (c : Fatal) :
    s.writeBootUnit b (.fatal c s) ≠ .done () t := fun h => by
  obtain ⟨-, -, h⟩ := State.writeBootUnit_done h
  cases h

/-- Everything a bus write can do: it never reaches the parameters, the CPU registers, the master-enable, the
run state, the boot image, the host port or the cycle report. -/
theorem State.writeByte_frame (s t : State) (a : Word) (v : Byte) (h : s.writeByte a v = .done () t) :
    t = s.withBusParts t := by
  unfold State.writeByte at h
  split at h
  · cases h
  · rename_i u _ _
    cases u with
    | bootRom => exact absurd h (s.writeBootRom_refused t _ _)
    | bootOff =>
      obtain ⟨-, -, h⟩ := State.writeBootUnit_done h
      unfold State.writeBootOff at h
      split_ifs at h <;> cases h <;> rfl
    | cart =>
      simp only [State.unitWrite] at h
      split at h
      · cases h; rfl
      · cases h
    | display =>
      simp only [State.unitWrite, State.writePpu] at h
      split_ifs at h
      · cases h; rfl
      · cases h; rfl
      · split at h
        · rw [State.writePpuReg_frame s t _ v h]; rfl
        · cases h
    | workRam => simp only [State.unitWrite] at h; split_ifs at h; cases h; rfl
    | highRam => simp only [State.unitWrite] at h; split_ifs at h; cases h; rfl
    | joypad => simp only [State.unitWrite] at h; split_ifs at h; cases h; rfl
    | timer =>
      simp only [State.unitWrite] at h
      split at h
      · cases h; rfl
      · cases h
    | cpuCore =>
      simp only [State.unitWrite] at h
      split_ifs at h
      · cases h; rfl
      · cases h; rfl
    | sound =>
      simp only [State.unitWrite] at h
      split at h
      · cases h; rfl
      · cases h
    | openBus => cases h; rfl

/-- A write that completes leaves the map and the overlay alone, or it is the BOOTOFF write (rules R101, R601). -/
theorem State.writeByte_overlay {s t : State} {a : Word} {v : Byte} (h : s.writeByte a v = .done () t) :
    t.busMap = s.busMap ∧ t.bootMapped = s.bootMapped ∨
    s.boot.isSome = true ∧ s.bootMapped = true ∧ s.target a = some (.bootOff, 0xFF50) ∧
      t = { s with bootMapped := false, busMap := .direct 0x0000 0x00FF .cart :: s.busMap } := by
  unfold State.writeByte at h
  split at h
  · cases h
  · rename_i u n ht
    by_cases hu : u = .bootOff
    · subst hu
      obtain ⟨hb, hn, h⟩ := State.writeBootUnit_done h
      unfold State.writeBootOff at h
      split_ifs at h with hm
      · cases h; exact .inr ⟨hb, hm, by rw [ht, of_decide_eq_true hn], rfl⟩
      · cases h; exact .inl ⟨rfl, rfl⟩
    · refine .inl ?_
      cases u with
      | bootOff => exact absurd rfl hu
      | bootRom => exact absurd h (s.writeBootRom_refused t _ _)
      | display =>
        simp only [State.unitWrite, State.writePpu] at h
        split_ifs at h
        · cases h; exact ⟨rfl, rfl⟩
        · cases h; exact ⟨rfl, rfl⟩
        · split at h
          · rw [State.writePpuReg_frame s t _ v h]; exact ⟨rfl, rfl⟩
          · cases h
      | openBus => cases h; exact ⟨rfl, rfl⟩
      | cart | timer | sound =>
        simp only [State.unitWrite] at h
        split at h <;> cases h
        exact ⟨rfl, rfl⟩
      | workRam | highRam | joypad =>
        simp only [State.unitWrite] at h
        split_ifs at h
        cases h; exact ⟨rfl, rfl⟩
      | cpuCore =>
        simp only [State.unitWrite] at h
        split_ifs at h <;> cases h <;> exact ⟨rfl, rfl⟩

/-- A write leaves the CPU registers alone. -/
theorem State.writeByte_regs {s t : State} {a : Word} {v : Byte} (h : s.writeByte a v = .done () t) :
    t.regs = s.regs := by
  rw [State.writeByte_frame s t a v h]; rfl

/-- A write leaves the run status alone. -/
theorem State.writeByte_run {s t : State} {a : Word} {v : Byte} (h : s.writeByte a v = .done () t) :
    t.run = s.run := by
  rw [State.writeByte_frame s t a v h]; rfl

end Sys2Proof.Machine
end

