-- ==== Sys2Proof/Laws/Canonical.lean ====
section
/-! SUPPORT. Every operation over memory keeps the byte arrays canonical, and reset has them so. -/

namespace Sys2Proof.Machine

theorem Cart.writeRam_cram {c d : Cart} {a : Nat} {v : Byte} (h : c.cram.wf = true)
    (hw : c.writeRam a v = .ok d) : d.cram.wf = true ∧ d.rom = c.rom := by
  unfold Cart.writeRam at hw
  split at hw
  · cases hw; exact ⟨Memory.write_wf _ _ _ h, rfl⟩
  · cases hw

theorem Cart.writeWindow_cram {c d : Cart} {a : Nat} {v : Byte} (h : c.cram.wf = true)
    (hw : c.writeWindow a v = .ok d) : d.cram.wf = true ∧ d.rom = c.rom := by
  unfold Cart.writeWindow at hw
  split at hw
  · split at hw
    · exact Cart.writeRam_cram h hw
    · exact Cart.writeRam_cram h hw
    · split at hw
      · cases hw; exact ⟨Memory.write_wf _ _ _ h, rfl⟩
      · cases hw
    · split at hw
      · exact Cart.writeRam_cram h hw
      · cases hw; exact ⟨h, rfl⟩
  · cases hw; exact ⟨h, rfl⟩

/-- A control write reaches neither array. -/
theorem Cart.control_arrays (c : Cart) (a : Nat) (v : Byte) :
    (c.control a v).cram = c.cram ∧ (c.control a v).rom = c.rom := by
  have hm : ∀ d : Cart, d.mbc1Banks.cram = d.cram ∧ d.mbc1Banks.rom = d.rom := by
    intro d; unfold Cart.mbc1Banks; split_ifs <;> exact ⟨rfl, rfl⟩
  unfold Cart.control
  cases c.kind
  · exact ⟨rfl, rfl⟩
  · simp only [Cart.mbc1Control]
    split_ifs
    · exact ⟨rfl, rfl⟩
    · exact hm _
    · exact hm _
    · exact hm _
  · simp only [Cart.mbc2Control]; split_ifs <;> exact ⟨rfl, rfl⟩
  · simp only [Cart.mbc3Control, Cart.mbc3Select, Cart.mbc3Latch]
    split_ifs
    · exact ⟨rfl, rfl⟩
    · exact ⟨rfl, rfl⟩
    · split <;> exact ⟨rfl, rfl⟩
    · exact ⟨rfl, rfl⟩
    · exact ⟨rfl, rfl⟩

theorem Cart.writeAt_cram {c d : Cart} {a : Nat} {v : Byte} (h : c.cram.wf = true)
    (hw : c.writeAt a v = .ok d) : d.cram.wf = true ∧ d.rom = c.rom := by
  unfold Cart.writeAt at hw
  split_ifs at hw
  · cases hw
    exact ⟨(Cart.control_arrays c a v).1 ▸ h, (Cart.control_arrays c a v).2⟩
  · exact Cart.writeWindow_cram h hw

/-- No sound register write but one to the wave table reaches it. -/
theorem Apu.writeReg_wave (u : Apu) (q : ApuReg) (v : Byte) : (u.writeReg q v).wave = u.wave := by
  cases q <;> simp only [Apu.writeReg, Apu.trigger1, Apu.trigger2, Apu.trigger3, Apu.trigger4,
    Apu.switched] <;> (try split_ifs) <;> (try split) <;> rfl

theorem Apu.writeAt_wave {u w : Apu} {a : Nat} {v : Byte} (h : u.wave.wf = true)
    (hw : u.writeAt a v = .ok w) : w.wave.wf = true := by
  unfold Apu.writeAt at hw
  split_ifs at hw
  · cases hw; exact Memory.write_wf _ _ _ h
  · split at hw
    · cases hw; rw [Apu.writeReg_wave]; exact h
    · cases hw

/-- A display register write reaches neither array of the display unit. -/
theorem PpuIo.writeReg_arrays (x : PpuIo) (r : PpuReg) (v : Byte) :
    (x.writeReg r v).ppu.vram = x.ppu.vram ∧ (x.writeReg r v).ppu.oam = x.ppu.oam := by
  cases r <;> first
    | exact ⟨rfl, rfl⟩
    | (simp only [PpuIo.writeReg, PpuIo.writeLcdc]; split <;> exact ⟨rfl, rfl⟩)

theorem State.oamCopy_oam (v : Byte) : ∀ (n i : Nat) (s t : State), s.ppu.oam.wf = true →
    State.oamCopy v n i s = .done () t → t.ppu.oam.wf = true
  | 0, _, s, t, h, hw => by cases hw; exact h
  | n + 1, i, s, t, h, hw => by
    unfold State.oamCopy at hw
    split at hw
    · cases hw
    · exact State.oamCopy_oam v n (i + 1) _ t (Memory.write_wf _ _ _ h) hw

/-- Every bus write keeps every byte array canonical. -/
theorem State.writeByte_canonical {s t : State} {a : Word} {v : Byte} (h : s.MemoriesCanonical)
    (hw : s.writeByte a v = .done () t) : t.MemoriesCanonical := by
  unfold State.writeByte at hw
  split at hw
  · cases hw
  · rename_i u _ _
    cases u with
    | bootRom => exact absurd hw (s.writeBootRom_refused t _ _)
    | bootOff =>
      obtain ⟨-, -, hw⟩ := State.writeBootUnit_done hw
      unfold State.writeBootOff at hw
      split_ifs at hw
      · cases hw; exact { h with }
      · cases hw; exact h
    | cart =>
      simp only [State.unitWrite] at hw
      split at hw
      · rename_i c hc
        cases hw
        have hd := Cart.writeAt_cram h.cram hc
        exact { h with cram := hd.1, rom := by show c.rom.wf = true; rw [hd.2]; exact h.rom }
      · cases hw
    | display =>
      simp only [State.unitWrite, State.writePpu] at hw
      split_ifs at hw
      · cases hw; exact { h with vram := Memory.write_wf _ _ _ h.vram }
      · cases hw; exact { h with oam := Memory.write_wf _ _ _ h.oam }
      · split at hw
        · rename_i r _
          have hr := PpuIo.writeReg_arrays s.ppuIo r v
          have h1 : (s.withPpuIo (s.ppuIo.writeReg r v)).MemoriesCanonical :=
            { h with
              vram := by show (s.ppuIo.writeReg r v).ppu.vram.wf = true; rw [hr.1]; exact h.vram
              oam := by show (s.ppuIo.writeReg r v).ppu.oam.wf = true; rw [hr.2]; exact h.oam }
          cases r <;> first
            | (cases hw; exact h1)
            | (obtain ⟨m, rfl⟩ := State.oamCopy_frame v 160 0 _ t hw
               exact { h1 with oam := State.oamCopy_oam v 160 0 _ _ h1.oam hw })
        · cases hw
    | workRam =>
      simp only [State.unitWrite] at hw; split_ifs at hw; cases hw
      exact { h with wram := Memory.write_wf _ _ _ h.wram }
    | highRam =>
      simp only [State.unitWrite] at hw; split_ifs at hw; cases hw
      exact { h with hram := Memory.write_wf _ _ _ h.hram }
    | joypad => simp only [State.unitWrite] at hw; split_ifs at hw; cases hw; exact { h with }
    | timer =>
      simp only [State.unitWrite] at hw
      split at hw
      · cases hw; exact { h with }
      · cases hw
    | cpuCore =>
      simp only [State.unitWrite] at hw
      split_ifs at hw
      · cases hw; exact { h with }
      · cases hw; exact { h with }
    | sound =>
      simp only [State.unitWrite] at hw
      split at hw
      · rename_i w hc
        cases hw
        exact { h with wave := Apu.writeAt_wave h.wave hc }
      · cases hw
    | openBus => cases hw; exact h

/-- The memory of `State.reset` is canonical. -/
theorem State.reset_canonical : State.reset.MemoriesCanonical where
  wram := rfl
  hram := rfl
  vram := rfl
  oam := rfl
  wave := rfl
  rom := rfl
  cram := rfl
  boot := fun _ h => nomatch h

end Sys2Proof.Machine
end

