-- ==== Sys2Proof/Laws/Decode.lean ====
section
/-! SUPPORT. Laws of the decoder: no byte is without a row, so the fetch never meets undecodable bytes. -/

namespace Sys2Proof

/-- Every second byte of the prefix is an extended instruction (rule R150). -/
theorem lookupExt_isSome (op2 : Byte) : (lookupExt op2).isSome = true := by
  revert op2; decide +kernel

/-- Whether a row answers depends on the opcode only, not on the bytes after it. -/
def BaseRow.OpcodeOnly (r : BaseRow) : Prop :=
  ∀ op b1 b2, (r.build op b1 b2).isSome = (r.build op 0 0).isSome

theorem baseRows_opcodeOnly : ∀ r ∈ baseRows, r.OpcodeOnly := by
  intro r hr
  simp only [baseRows, List.mem_append] at hr
  rcases hr with ((hr | hr) | hr) | hr
  · simp only [baseRows1, List.mem_cons, List.not_mem_nil, or_false] at hr
    rcases hr with rfl | rfl | rfl | rfl | rfl | rfl | rfl | rfl | rfl | rfl | rfl | rfl | rfl | rfl | rfl | rfl | rfl | rfl | rfl | rfl | rfl | rfl | rfl | rfl <;> exact fun _ _ _ => rfl
  · simp only [baseRows2, List.mem_cons, List.not_mem_nil, or_false] at hr
    rcases hr with rfl | rfl | rfl | rfl | rfl | rfl | rfl | rfl | rfl | rfl | rfl | rfl | rfl | rfl | rfl | rfl | rfl | rfl | rfl | rfl | rfl | rfl | rfl | rfl <;> exact fun _ _ _ => rfl
  · simp only [baseRows3, List.mem_cons, List.not_mem_nil, or_false] at hr
    rcases hr with rfl | rfl | rfl | rfl | rfl | rfl | rfl | rfl | rfl | rfl | rfl | rfl | rfl | rfl | rfl | rfl | rfl | rfl | rfl | rfl | rfl <;> exact fun _ _ _ => rfl
  · simp only [baseRows4, List.mem_cons, List.not_mem_nil, or_false] at hr
    rcases hr with rfl | rfl | rfl | rfl | rfl | rfl | rfl | rfl | rfl | rfl | rfl | rfl | rfl | rfl | rfl | rfl | rfl | rfl | rfl | rfl | rfl | rfl | rfl | rfl | rfl <;> intro op b1 b2 <;> first
      | rfl
      | (dsimp only; cases Reg8.ofCode (yField op) <;> rfl)

/-- Every opcode value has a row that answers (rule R153). -/
theorem lookupBase_isSome (op b1 b2 : Byte) : (lookupBase op b1 b2).isSome = true := by
  have h : ∀ op : Byte, (lookupBase op 0 0).isSome = true := by decide +kernel
  have key : ∀ l : List BaseRow, (∀ r ∈ l, r.OpcodeOnly) →
      (l.findSome? fun r => if op &&& r.mask = r.pat then r.build op b1 b2 else none).isSome =
      (l.findSome? fun r => if op &&& r.mask = r.pat then r.build op 0 0 else none).isSome := by
    intro l
    induction l with
    | nil => intro _; rfl
    | cons r rest ih =>
      intro hl
      have hr := hl r List.mem_cons_self op b1 b2
      have hi := ih fun q hq => hl q (List.mem_cons_of_mem _ hq)
      simp only [List.findSome?_cons]
      by_cases hm : op &&& r.mask = r.pat
      · simp only [if_pos hm]
        cases h1 : r.build op b1 b2 <;> cases h2 : r.build op 0 0 <;> simp_all
      · simpa only [if_neg hm] using hi
  unfold lookupBase at h ⊢
  rw [key baseRows baseRows_opcodeOnly]
  exact h op

/-- Bytes that are as many as their first byte asks for always decode. -/
theorem decode_total (op : Byte) (rest : List Byte) (h : opLength op ≤ rest.length + 1) :
    ∃ i bs, decode (op :: rest) = .ok (i, bs) := by
  have hb := lookupBase_isSome op (rest.getD 0 0) (rest.getD 1 0)
  unfold decode
  dsimp only
  rw [if_neg (Nat.not_lt.mpr h)]
  cases hl : lookupBase op (rest.getD 0 0) (rest.getD 1 0) with
  | none => rw [hl] at hb; cases hb
  | some i =>
    split
    · rename_i op2 he
      cases he
      have hx := lookupExt_isSome op2
      cases hk : lookupExt op2 with
      | none => simp [hk] at hx
      | some j => exact ⟨j, _, rfl⟩
    · rename_i j _ he; cases he; exact ⟨_, _, rfl⟩
    · rename_i he; cases he

namespace Machine

theorem State.readBytes_length {s : State} : ∀ {n : Nat} {a : Word} {bs : List Byte},
    s.readBytes n a = .ok bs → bs.length = n
  | 0, _, _, h => by cases h; rfl
  | n + 1, a, bs, h => by
    unfold State.readBytes at h
    split at h
    · cases h
    · split at h
      · cases h
      · rename_i hv; cases h; simp [State.readBytes_length hv]

/-- The fetch fails only where a byte cannot be read. -/
theorem State.fetch_cases (s : State) :
    (∃ i, s.fetch = .ok i) ∨ (∃ c, s.fetch = .error c ∧ s.readByte s.regs.pc = .error c) ∨
      (∃ c n, s.fetch = .error c ∧ s.readBytes n (s.regs.pc + 1) = .error c) := by
  unfold State.fetch
  cases h : s.readByte s.regs.pc with
  | error c => exact .inr (.inl ⟨c, rfl, rfl⟩)
  | ok op =>
    dsimp only
    cases hr : s.readBytes (opLength op - 1) (s.regs.pc + 1) with
    | error c => exact .inr (.inr ⟨c, _, rfl, hr⟩)
    | ok rest =>
      have hl := State.readBytes_length hr
      obtain ⟨i, bs, hd⟩ := decode_total op rest (by omega)
      exact .inl ⟨i, by simp only [hd]⟩

end Machine

end Sys2Proof
end

