-- ==== Sys2Proof/Laws/Display.lean ====
section
/-! SUPPORT. Laws of the display unit's rendering: what each operation leaves in each pixel of each layer. -/

namespace Sys2Proof.Machine

/-! ## Layers -/

/-- No layer has a column past 159. -/
theorem Layer.get_of_ge (l : Layer) (r : Nat) {c : Nat} (h : 160 ≤ c) : l.get r c = none := by
  unfold Layer.get
  cases l[r]? with
  | none => rfl
  | some row => simp [Vector.getElem?_eq_none h]

theorem Layer.get_set (l : Layer) {y x : Nat} (d : Dot) (hy : y < 144) (hx : x < 160) (r c : Nat) :
    (l.set y x d).get r c = if r = y ∧ c = x then d else l.get r c := by
  unfold Layer.set Layer.get
  rw [Vector.getElem?_eq_getElem hy]
  by_cases hr : r = y
  · subst hr
    rw [Vector.getElem?_setIfInBounds_self_of_lt hy, Vector.getElem?_eq_getElem hy]
    by_cases hc : c = x
    · subst hc; simp [hx]
    · have : ¬ x = c := fun e => hc e.symm
      simp [hc, this]
  · have : ¬ y = r := fun e => hr e.symm
    simp [hr, this]

theorem Layer.get_clearRow (l : Layer) {y : Nat} (hy : y < 144) (r c : Nat) :
    (l.clearRow y).get r c = if r = y then none else l.get r c := by
  unfold Layer.clearRow Layer.get
  by_cases hr : r = y
  · subst hr
    simp only [Vector.getElem?_setIfInBounds, hy, if_true, Option.bind_some]
    by_cases hc : c < 160
    · rw [Vector.getElem?_eq_getElem (by simpa using hc)]; simp
    · rw [Vector.getElem?_eq_none (by omega)]; rfl
  · have : ¬ y = r := fun e => hr e.symm
    simp [hr, this]

/-! ## Palettes, background, window -/

theorem paletteShade_eq (pal : Byte) (k : Nat) : paletteShade pal k = shadeOf pal k := by
  apply BitVec.eq_of_toNat_eq
  simp [paletteShade, shadeOf, fieldOf, Nat.pow_mul]

theorem Ppu.mapShade_eq (p : Ppu) (high : Bool) (x y : Nat) : p.mapShade high x y = mapPixel p high x y := by
  unfold Ppu.mapShade mapPixel Ppu.tilePixel
  rw [paletteShade_eq]
  congr 1
  have e : ∀ a b : Nat, a = b →
      colourCode (p.vram.read (a + 2 * (y % 8) + 1)) (p.vram.read (a + 2 * (y % 8))) (7 - x % 8) =
      codeAt p.vram (b + 2 * (y % 8)) (7 - x % 8) := fun a b h => h ▸ rfl
  apply e
  have hb : bitOf p.lcdc 4 = p.lcdc.getLsbD 4 := rfl
  simp only [hb]
  cases p.lcdc.getLsbD 4
  · simp only [Bool.false_eq_true, if_false, false_or]
    split_ifs <;> omega
  · simp

theorem Ppu.bgShade_eq (p : Ppu) (c : Nat) : p.bgShade c = bgPixel p c := by
  unfold Ppu.bgShade bgPixel
  rw [Ppu.mapShade_eq]; rfl

theorem Ppu.winDot_eq (p : Ppu) (c : Nat) : p.winDot c = winPixel p c := by
  unfold Ppu.winDot winPixel
  rw [Ppu.mapShade_eq]; rfl

/-! ## Sprites -/

/-- What pixel `px` of a drawn sprite row puts at column `c`. -/
def spriteDotAt (sx : Nat) (hi lo pal : Byte) (flipX : Bool) (c px : Nat) : Dot :=
  let k := colourCode hi lo (if flipX then px else 7 - px)
  if sx + px = c + 8 ∧ k ≠ 0 then some (shadeOf pal k) else none

/-- One pixel of a sprite row goes over what is transparent. -/
theorem drawSpritePixel_get {ly : Nat} (hy : ly < 144) (sx : Nat) (hi lo pal : Byte) (flipX : Bool) (l : Layer)
    (px r : Nat) {c : Nat} (hc : c < 160) :
    (drawSpritePixel ly sx hi lo pal flipX l px).get r c =
      if r = ly then (l.get r c).or (spriteDotAt sx hi lo pal flipX c px) else l.get r c := by
  unfold drawSpritePixel spriteDotAt
  dsimp only
  rw [paletteShade_eq]
  generalize colourCode hi lo (if flipX = true then px else 7 - px) = k
  by_cases hr : r = ly
  · subst hr
    rw [if_pos rfl]
    by_cases hx : sx + px = c + 8 ∧ k ≠ 0
    · have e : sx + px - 8 = c := by omega
      rw [if_pos hx, e]
      cases hg : l.get r c with
      | none => rw [if_pos ⟨by omega, by omega, hx.2, rfl⟩, Layer.get_set _ _ hy hc, if_pos ⟨rfl, rfl⟩]; rfl
      | some v => rw [if_neg (fun h => by cases h.2.2.2), hg]; rfl
    · rw [if_neg hx, Option.or_none]
      split_ifs with h
      · rw [Layer.get_set _ _ hy (by omega), if_neg (fun e => hx ⟨by omega, h.2.2.1⟩)]
      · rfl
  · rw [if_neg hr]
    split_ifs with h
    · rw [Layer.get_set _ _ hy (by omega), if_neg (fun e => hr e.1)]
    · rfl

/-- The pixels of a sprite row, in any number. -/
theorem drawSpritePixels_get {ly : Nat} (hy : ly < 144) (sx : Nat) (hi lo pal : Byte) (flipX : Bool) {c : Nat}
    (hc : c < 160) (r : Nat) : ∀ (pxs : List Nat) (l : Layer),
    (pxs.foldl (drawSpritePixel ly sx hi lo pal flipX) l).get r c =
      if r = ly then (l.get r c).or (pxs.findSome? (spriteDotAt sx hi lo pal flipX c)) else l.get r c
  | [], l => by simp
  | px :: rest, l => by
    rw [List.foldl_cons, drawSpritePixels_get hy sx hi lo pal flipX hc r rest,
      drawSpritePixel_get hy _ _ _ _ _ _ _ _ hc]
    split_ifs
    · rw [Option.or_assoc, List.findSome?_cons]
      cases spriteDotAt sx hi lo pal flipX c px <;> rfl
    · rfl

/-- Of a sprite row only the pixel that lies at column `c` shows there. -/
theorem findSome_spriteDotAt (n sx : Nat) (hi lo pal : Byte) (flipX : Bool) (c : Nat) :
    (List.range n).findSome? (spriteDotAt sx hi lo pal flipX c) =
      if sx ≤ c + 8 ∧ c + 8 < sx + n then spriteDotAt sx hi lo pal flipX c (c + 8 - sx) else none := by
  induction n with
  | zero => rw [if_neg (by omega)]; rfl
  | succ n ih =>
    rw [List.range_succ, List.findSome?_append, ih]
    by_cases hn : sx + n = c + 8
    · have e : c + 8 - sx = n := by omega
      rw [if_neg (by omega), if_pos (by omega), e]
      cases h : spriteDotAt sx hi lo pal flipX c n <;> simp [h]
    · have e : spriteDotAt sx hi lo pal flipX c n = none := if_neg (fun h => hn h.1)
      have e' : (sx ≤ c + 8 ∧ c + 8 < sx + (n + 1)) ↔ (sx ≤ c + 8 ∧ c + 8 < sx + n) := by omega
      simp [e, e']

/-- A drawn sprite row: each pixel of its layer shows what `spritePixel` gives where it was transparent. -/
theorem Ppu.drawSprite_get (p : Ppu) (i : Nat) (hy : p.ly < 144) (r : Nat) {c : Nat} (hc : c < 160) :
    (p.drawSprite i).sprAbove.get r c =
      (if r = p.ly then (p.sprAbove.get r c).or (if spriteIsBelow p i = false then spritePixel p i c else none)
       else p.sprAbove.get r c) ∧
    (p.drawSprite i).sprBelow.get r c =
      (if r = p.ly then (p.sprBelow.get r c).or (if spriteIsBelow p i = true then spritePixel p i c else none)
       else p.sprBelow.get r c) := by
  have hb : ∀ k, bitOf (p.sprite i 3) k = (p.oam.read (4 * i + 3)).getLsbD k := fun _ => rfl
  have hh : p.spriteHeight = if p.lcdc.getLsbD 2 then 16 else 8 := rfl
  have h16 : p.spriteHeight = 16 ↔ p.lcdc.getLsbD 2 = true := by rw [hh]; cases p.lcdc.getLsbD 2 <;> decide
  have hs : ∀ k, p.sprite i k = p.oam.read (4 * i + k) := fun _ => rfl
  have hbel : spriteIsBelow p i = bitOf (p.sprite i 3) 7 := rfl
  unfold Ppu.drawSprite spritePixel
  dsimp only
  rw [hbel]
  simp only [← hb, ← hh]
  simp only [← h16]
  have h0 : p.oam.read (4 * i) = p.sprite i 0 := rfl
  simp only [h0, ← hs]
  by_cases hrow : (p.sprite i 0).toNat ≤ p.ly + 16 ∧ p.ly + 16 < (p.sprite i 0).toNat + p.spriteHeight
  · rw [if_pos hrow]
    generalize (if p.spriteHeight = 16 then (p.sprite i 2).toNat / 2 * 2 +
      (if bitOf (p.sprite i 3) 6 = true then p.spriteHeight - 1 - (p.ly + 16 - (p.sprite i 0).toNat)
        else p.ly + 16 - (p.sprite i 0).toNat) / 8 else (p.sprite i 2).toNat) = tile
    generalize (if bitOf (p.sprite i 3) 6 = true then p.spriteHeight - 1 - (p.ly + 16 - (p.sprite i 0).toNat)
        else p.ly + 16 - (p.sprite i 0).toNat) = row
    have key : ∀ l : Layer, _ = _ := fun l =>
      (drawSpritePixels_get hy (p.sprite i 1).toNat (p.vram.read (16 * tile + 2 * (row % 8) + 1))
        (p.vram.read (16 * tile + 2 * (row % 8))) (if bitOf (p.sprite i 3) 4 = true then p.obp1 else p.obp0)
        (bitOf (p.sprite i 3) 5) hc r (List.range 8) l)
    simp only [findSome_spriteDotAt] at key
    have hdot : (if (p.sprite i 1).toNat ≤ c + 8 ∧ c + 8 < (p.sprite i 1).toNat + 8 then
          spriteDotAt (p.sprite i 1).toNat (p.vram.read (16 * tile + 2 * (row % 8) + 1))
            (p.vram.read (16 * tile + 2 * (row % 8))) (if bitOf (p.sprite i 3) 4 = true then p.obp1 else p.obp0)
            (bitOf (p.sprite i 3) 5) c (c + 8 - (p.sprite i 1).toNat)
        else none) =
        if (p.sprite i 0).toNat ≤ p.ly + 16 ∧ p.ly + 16 < (p.sprite i 0).toNat + p.spriteHeight ∧
            (p.sprite i 1).toNat ≤ c + 8 ∧ c < (p.sprite i 1).toNat ∧
            codeAt p.vram (16 * tile + 2 * (row % 8))
              (if bitOf (p.sprite i 3) 5 = true then c + 8 - (p.sprite i 1).toNat
               else 7 - (c + 8 - (p.sprite i 1).toNat)) ≠ 0 then
          some (shadeOf (if bitOf (p.sprite i 3) 4 = true then p.obp1 else p.obp0)
            (codeAt p.vram (16 * tile + 2 * (row % 8))
              (if bitOf (p.sprite i 3) 5 = true then c + 8 - (p.sprite i 1).toNat
               else 7 - (c + 8 - (p.sprite i 1).toNat))))
        else none := by
      have hcode : ∀ b, codeAt p.vram (16 * tile + 2 * (row % 8)) b =
        colourCode (p.vram.read (16 * tile + 2 * (row % 8) + 1)) (p.vram.read (16 * tile + 2 * (row % 8))) b :=
        fun _ => rfl
      simp only [hcode]
      unfold spriteDotAt
      by_cases hx : (p.sprite i 1).toNat ≤ c + 8 ∧ c + 8 < (p.sprite i 1).toNat + 8
      · rw [if_pos hx]
        dsimp only
        refine if_congr ⟨fun h => ⟨hrow.1, hrow.2, hx.1, by omega, h.2⟩, fun h => ⟨by omega, h.2.2.2.2⟩⟩ rfl rfl
      · rw [if_neg hx, if_neg (fun h => hx ⟨h.2.2.1, by omega⟩)]
    rw [hdot] at key
    cases bitOf (p.sprite i 3) 7
    · exact ⟨by rw [if_neg Bool.false_ne_true, if_pos rfl]; exact key _, by simp⟩
    · exact ⟨by simp, by rw [if_pos rfl, if_pos rfl]; exact key _⟩
  · rw [if_neg hrow]
    have : ∀ q : Prop, ¬((p.sprite i 0).toNat ≤ p.ly + 16 ∧ p.ly + 16 < (p.sprite i 0).toNat + p.spriteHeight ∧ q) :=
      fun q h => hrow ⟨h.1, h.2.1⟩
    simp [this]

end Sys2Proof.Machine
end

