-- ==== Sys2Proof/Laws/State.lean ====
section
/-! SUPPORT. What each register and flag update leaves alone, one simp lemma per field per update, and what it
changes. -/

namespace Sys2Proof.Machine

/-! ### `setF` -/

@[simp] theorem State.setF_params (s : State) (v : Byte) : (s.setF v).params = s.params := rfl
@[simp] theorem State.setF_ime (s : State) (v : Byte) : (s.setF v).ime = s.ime := rfl
@[simp] theorem State.setF_eiPending (s : State) (v : Byte) : (s.setF v).eiPending = s.eiPending := rfl
@[simp] theorem State.setF_halt (s : State) (v : Byte) : (s.setF v).halt = s.halt := rfl
@[simp] theorem State.setF_stop (s : State) (v : Byte) : (s.setF v).stop = s.stop := rfl
@[simp] theorem State.setF_ifReg (s : State) (v : Byte) : (s.setF v).ifReg = s.ifReg := rfl
@[simp] theorem State.setF_ieReg (s : State) (v : Byte) : (s.setF v).ieReg = s.ieReg := rfl
@[simp] theorem State.setF_run (s : State) (v : Byte) : (s.setF v).run = s.run := rfl
@[simp] theorem State.setF_busMap (s : State) (v : Byte) : (s.setF v).busMap = s.busMap := rfl
@[simp] theorem State.setF_wram (s : State) (v : Byte) : (s.setF v).wram = s.wram := rfl
@[simp] theorem State.setF_hram (s : State) (v : Byte) : (s.setF v).hram = s.hram := rfl
@[simp] theorem State.setF_boot (s : State) (v : Byte) : (s.setF v).boot = s.boot := rfl
@[simp] theorem State.setF_bootMapped (s : State) (v : Byte) : (s.setF v).bootMapped = s.bootMapped := rfl
@[simp] theorem State.setF_joypad (s : State) (v : Byte) : (s.setF v).joypad = s.joypad := rfl
@[simp] theorem State.setF_timer (s : State) (v : Byte) : (s.setF v).timer = s.timer := rfl
@[simp] theorem State.setF_ppu (s : State) (v : Byte) : (s.setF v).ppu = s.ppu := rfl
@[simp] theorem State.setF_apu (s : State) (v : Byte) : (s.setF v).apu = s.apu := rfl
@[simp] theorem State.setF_cart (s : State) (v : Byte) : (s.setF v).cart = s.cart := rfl
@[simp] theorem State.setF_host (s : State) (v : Byte) : (s.setF v).host = s.host := rfl
@[simp] theorem State.setF_out (s : State) (v : Byte) : (s.setF v).out = s.out := rfl
@[simp] theorem State.setF_cyc (s : State) (v : Byte) : (s.setF v).cyc = s.cyc := rfl

/-! ### `setSp` -/

@[simp] theorem State.setSp_params (s : State) (v : Word) : (s.setSp v).params = s.params := rfl
@[simp] theorem State.setSp_ime (s : State) (v : Word) : (s.setSp v).ime = s.ime := rfl
@[simp] theorem State.setSp_eiPending (s : State) (v : Word) : (s.setSp v).eiPending = s.eiPending := rfl
@[simp] theorem State.setSp_halt (s : State) (v : Word) : (s.setSp v).halt = s.halt := rfl
@[simp] theorem State.setSp_stop (s : State) (v : Word) : (s.setSp v).stop = s.stop := rfl
@[simp] theorem State.setSp_ifReg (s : State) (v : Word) : (s.setSp v).ifReg = s.ifReg := rfl
@[simp] theorem State.setSp_ieReg (s : State) (v : Word) : (s.setSp v).ieReg = s.ieReg := rfl
@[simp] theorem State.setSp_run (s : State) (v : Word) : (s.setSp v).run = s.run := rfl
@[simp] theorem State.setSp_busMap (s : State) (v : Word) : (s.setSp v).busMap = s.busMap := rfl
@[simp] theorem State.setSp_wram (s : State) (v : Word) : (s.setSp v).wram = s.wram := rfl
@[simp] theorem State.setSp_hram (s : State) (v : Word) : (s.setSp v).hram = s.hram := rfl
@[simp] theorem State.setSp_boot (s : State) (v : Word) : (s.setSp v).boot = s.boot := rfl
@[simp] theorem State.setSp_bootMapped (s : State) (v : Word) : (s.setSp v).bootMapped = s.bootMapped := rfl
@[simp] theorem State.setSp_joypad (s : State) (v : Word) : (s.setSp v).joypad = s.joypad := rfl
@[simp] theorem State.setSp_timer (s : State) (v : Word) : (s.setSp v).timer = s.timer := rfl
@[simp] theorem State.setSp_ppu (s : State) (v : Word) : (s.setSp v).ppu = s.ppu := rfl
@[simp] theorem State.setSp_apu (s : State) (v : Word) : (s.setSp v).apu = s.apu := rfl
@[simp] theorem State.setSp_cart (s : State) (v : Word) : (s.setSp v).cart = s.cart := rfl
@[simp] theorem State.setSp_host (s : State) (v : Word) : (s.setSp v).host = s.host := rfl
@[simp] theorem State.setSp_out (s : State) (v : Word) : (s.setSp v).out = s.out := rfl
@[simp] theorem State.setSp_cyc (s : State) (v : Word) : (s.setSp v).cyc = s.cyc := rfl

/-! ### `setPc` -/

@[simp] theorem State.setPc_params (s : State) (v : Word) : (s.setPc v).params = s.params := rfl
@[simp] theorem State.setPc_ime (s : State) (v : Word) : (s.setPc v).ime = s.ime := rfl
@[simp] theorem State.setPc_eiPending (s : State) (v : Word) : (s.setPc v).eiPending = s.eiPending := rfl
@[simp] theorem State.setPc_halt (s : State) (v : Word) : (s.setPc v).halt = s.halt := rfl
@[simp] theorem State.setPc_stop (s : State) (v : Word) : (s.setPc v).stop = s.stop := rfl
@[simp] theorem State.setPc_ifReg (s : State) (v : Word) : (s.setPc v).ifReg = s.ifReg := rfl
@[simp] theorem State.setPc_ieReg (s : State) (v : Word) : (s.setPc v).ieReg = s.ieReg := rfl
@[simp] theorem State.setPc_run (s : State) (v : Word) : (s.setPc v).run = s.run := rfl
@[simp] theorem State.setPc_busMap (s : State) (v : Word) : (s.setPc v).busMap = s.busMap := rfl
@[simp] theorem State.setPc_wram (s : State) (v : Word) : (s.setPc v).wram = s.wram := rfl
@[simp] theorem State.setPc_hram (s : State) (v : Word) : (s.setPc v).hram = s.hram := rfl
@[simp] theorem State.setPc_boot (s : State) (v : Word) : (s.setPc v).boot = s.boot := rfl
@[simp] theorem State.setPc_bootMapped (s : State) (v : Word) : (s.setPc v).bootMapped = s.bootMapped := rfl
@[simp] theorem State.setPc_joypad (s : State) (v : Word) : (s.setPc v).joypad = s.joypad := rfl
@[simp] theorem State.setPc_timer (s : State) (v : Word) : (s.setPc v).timer = s.timer := rfl
@[simp] theorem State.setPc_ppu (s : State) (v : Word) : (s.setPc v).ppu = s.ppu := rfl
@[simp] theorem State.setPc_apu (s : State) (v : Word) : (s.setPc v).apu = s.apu := rfl
@[simp] theorem State.setPc_cart (s : State) (v : Word) : (s.setPc v).cart = s.cart := rfl
@[simp] theorem State.setPc_host (s : State) (v : Word) : (s.setPc v).host = s.host := rfl
@[simp] theorem State.setPc_out (s : State) (v : Word) : (s.setPc v).out = s.out := rfl
@[simp] theorem State.setPc_cyc (s : State) (v : Word) : (s.setPc v).cyc = s.cyc := rfl

/-! ### `setFlags` -/

@[simp] theorem State.setFlags_params (s : State) (z n h c : Bool) : (s.setFlags z n h c).params = s.params := rfl
@[simp] theorem State.setFlags_ime (s : State) (z n h c : Bool) : (s.setFlags z n h c).ime = s.ime := rfl
@[simp] theorem State.setFlags_eiPending (s : State) (z n h c : Bool) : (s.setFlags z n h c).eiPending = s.eiPending := rfl
@[simp] theorem State.setFlags_halt (s : State) (z n h c : Bool) : (s.setFlags z n h c).halt = s.halt := rfl
@[simp] theorem State.setFlags_stop (s : State) (z n h c : Bool) : (s.setFlags z n h c).stop = s.stop := rfl
@[simp] theorem State.setFlags_ifReg (s : State) (z n h c : Bool) : (s.setFlags z n h c).ifReg = s.ifReg := rfl
@[simp] theorem State.setFlags_ieReg (s : State) (z n h c : Bool) : (s.setFlags z n h c).ieReg = s.ieReg := rfl
@[simp] theorem State.setFlags_run (s : State) (z n h c : Bool) : (s.setFlags z n h c).run = s.run := rfl
@[simp] theorem State.setFlags_busMap (s : State) (z n h c : Bool) : (s.setFlags z n h c).busMap = s.busMap := rfl
@[simp] theorem State.setFlags_wram (s : State) (z n h c : Bool) : (s.setFlags z n h c).wram = s.wram := rfl
@[simp] theorem State.setFlags_hram (s : State) (z n h c : Bool) : (s.setFlags z n h c).hram = s.hram := rfl
@[simp] theorem State.setFlags_boot (s : State) (z n h c : Bool) : (s.setFlags z n h c).boot = s.boot := rfl
@[simp] theorem State.setFlags_bootMapped (s : State) (z n h c : Bool) : (s.setFlags z n h c).bootMapped = s.bootMapped := rfl
@[simp] theorem State.setFlags_joypad (s : State) (z n h c : Bool) : (s.setFlags z n h c).joypad = s.joypad := rfl
@[simp] theorem State.setFlags_timer (s : State) (z n h c : Bool) : (s.setFlags z n h c).timer = s.timer := rfl
@[simp] theorem State.setFlags_ppu (s : State) (z n h c : Bool) : (s.setFlags z n h c).ppu = s.ppu := rfl
@[simp] theorem State.setFlags_apu (s : State) (z n h c : Bool) : (s.setFlags z n h c).apu = s.apu := rfl
@[simp] theorem State.setFlags_cart (s : State) (z n h c : Bool) : (s.setFlags z n h c).cart = s.cart := rfl
@[simp] theorem State.setFlags_host (s : State) (z n h c : Bool) : (s.setFlags z n h c).host = s.host := rfl
@[simp] theorem State.setFlags_out (s : State) (z n h c : Bool) : (s.setFlags z n h c).out = s.out := rfl
@[simp] theorem State.setFlags_cyc (s : State) (z n h c : Bool) : (s.setFlags z n h c).cyc = s.cyc := rfl

/-! ### `setCyc` -/

@[simp] theorem State.setCyc_params (s : State) (n : Nat) : (s.setCyc n).params = s.params := rfl
@[simp] theorem State.setCyc_ime (s : State) (n : Nat) : (s.setCyc n).ime = s.ime := rfl
@[simp] theorem State.setCyc_eiPending (s : State) (n : Nat) : (s.setCyc n).eiPending = s.eiPending := rfl
@[simp] theorem State.setCyc_halt (s : State) (n : Nat) : (s.setCyc n).halt = s.halt := rfl
@[simp] theorem State.setCyc_stop (s : State) (n : Nat) : (s.setCyc n).stop = s.stop := rfl
@[simp] theorem State.setCyc_ifReg (s : State) (n : Nat) : (s.setCyc n).ifReg = s.ifReg := rfl
@[simp] theorem State.setCyc_ieReg (s : State) (n : Nat) : (s.setCyc n).ieReg = s.ieReg := rfl
@[simp] theorem State.setCyc_run (s : State) (n : Nat) : (s.setCyc n).run = s.run := rfl
@[simp] theorem State.setCyc_busMap (s : State) (n : Nat) : (s.setCyc n).busMap = s.busMap := rfl
@[simp] theorem State.setCyc_wram (s : State) (n : Nat) : (s.setCyc n).wram = s.wram := rfl
@[simp] theorem State.setCyc_hram (s : State) (n : Nat) : (s.setCyc n).hram = s.hram := rfl
@[simp] theorem State.setCyc_boot (s : State) (n : Nat) : (s.setCyc n).boot = s.boot := rfl
@[simp] theorem State.setCyc_bootMapped (s : State) (n : Nat) : (s.setCyc n).bootMapped = s.bootMapped := rfl
@[simp] theorem State.setCyc_joypad (s : State) (n : Nat) : (s.setCyc n).joypad = s.joypad := rfl
@[simp] theorem State.setCyc_timer (s : State) (n : Nat) : (s.setCyc n).timer = s.timer := rfl
@[simp] theorem State.setCyc_ppu (s : State) (n : Nat) : (s.setCyc n).ppu = s.ppu := rfl
@[simp] theorem State.setCyc_apu (s : State) (n : Nat) : (s.setCyc n).apu = s.apu := rfl
@[simp] theorem State.setCyc_cart (s : State) (n : Nat) : (s.setCyc n).cart = s.cart := rfl
@[simp] theorem State.setCyc_host (s : State) (n : Nat) : (s.setCyc n).host = s.host := rfl
@[simp] theorem State.setCyc_out (s : State) (n : Nat) : (s.setCyc n).out = s.out := rfl
@[simp] theorem State.setCyc_regs (s : State) (n : Nat) : (s.setCyc n).regs = s.regs := rfl
@[simp] theorem State.setCyc_cyc (s : State) (n : Nat) : (s.setCyc n).cyc = n := rfl

/-! ### `setReg` -/

@[simp] theorem State.setReg_params (s : State) (r : Reg8) (v : Byte) : (s.setReg r v).params = s.params := by
  cases r <;> rfl
@[simp] theorem State.setReg_ime (s : State) (r : Reg8) (v : Byte) : (s.setReg r v).ime = s.ime := by
  cases r <;> rfl
@[simp] theorem State.setReg_eiPending (s : State) (r : Reg8) (v : Byte) : (s.setReg r v).eiPending = s.eiPending := by
  cases r <;> rfl
@[simp] theorem State.setReg_halt (s : State) (r : Reg8) (v : Byte) : (s.setReg r v).halt = s.halt := by
  cases r <;> rfl
@[simp] theorem State.setReg_stop (s : State) (r : Reg8) (v : Byte) : (s.setReg r v).stop = s.stop := by
  cases r <;> rfl
@[simp] theorem State.setReg_ifReg (s : State) (r : Reg8) (v : Byte) : (s.setReg r v).ifReg = s.ifReg := by
  cases r <;> rfl
@[simp] theorem State.setReg_ieReg (s : State) (r : Reg8) (v : Byte) : (s.setReg r v).ieReg = s.ieReg := by
  cases r <;> rfl
@[simp] theorem State.setReg_run (s : State) (r : Reg8) (v : Byte) : (s.setReg r v).run = s.run := by
  cases r <;> rfl
@[simp] theorem State.setReg_busMap (s : State) (r : Reg8) (v : Byte) : (s.setReg r v).busMap = s.busMap := by
  cases r <;> rfl
@[simp] theorem State.setReg_wram (s : State) (r : Reg8) (v : Byte) : (s.setReg r v).wram = s.wram := by
  cases r <;> rfl
@[simp] theorem State.setReg_hram (s : State) (r : Reg8) (v : Byte) : (s.setReg r v).hram = s.hram := by
  cases r <;> rfl
@[simp] theorem State.setReg_boot (s : State) (r : Reg8) (v : Byte) : (s.setReg r v).boot = s.boot := by
  cases r <;> rfl
@[simp] theorem State.setReg_bootMapped (s : State) (r : Reg8) (v : Byte) : (s.setReg r v).bootMapped = s.bootMapped := by
  cases r <;> rfl
@[simp] theorem State.setReg_joypad (s : State) (r : Reg8) (v : Byte) : (s.setReg r v).joypad = s.joypad := by
  cases r <;> rfl
@[simp] theorem State.setReg_timer (s : State) (r : Reg8) (v : Byte) : (s.setReg r v).timer = s.timer := by
  cases r <;> rfl
@[simp] theorem State.setReg_ppu (s : State) (r : Reg8) (v : Byte) : (s.setReg r v).ppu = s.ppu := by
  cases r <;> rfl
@[simp] theorem State.setReg_apu (s : State) (r : Reg8) (v : Byte) : (s.setReg r v).apu = s.apu := by
  cases r <;> rfl
@[simp] theorem State.setReg_cart (s : State) (r : Reg8) (v : Byte) : (s.setReg r v).cart = s.cart := by
  cases r <;> rfl
@[simp] theorem State.setReg_host (s : State) (r : Reg8) (v : Byte) : (s.setReg r v).host = s.host := by
  cases r <;> rfl
@[simp] theorem State.setReg_out (s : State) (r : Reg8) (v : Byte) : (s.setReg r v).out = s.out := by
  cases r <;> rfl
@[simp] theorem State.setReg_cyc (s : State) (r : Reg8) (v : Byte) : (s.setReg r v).cyc = s.cyc := by
  cases r <;> rfl

/-! ### Registers after an update -/

@[simp] theorem State.setSp_regs (s : State) (v : Word) : (s.setSp v).regs = { s.regs with sp := v } := rfl

@[simp] theorem State.setPc_regs (s : State) (v : Word) : (s.setPc v).regs = { s.regs with pc := v } := rfl

@[simp] theorem State.setF_regs (s : State) (v : Byte) :
    (s.setF v).regs = { s.regs with f := v &&& 0xF0 } := rfl

@[simp] theorem State.setFlags_regs (s : State) (z n h c : Bool) :
    (s.setFlags z n h c).regs = { s.regs with f := packFlags z n h c } := rfl

@[simp] theorem State.setReg_regs_f (s : State) (r : Reg8) (v : Byte) : (s.setReg r v).regs.f = s.regs.f := by
  cases r <;> rfl

@[simp] theorem State.setReg_regs_sp (s : State) (r : Reg8) (v : Byte) : (s.setReg r v).regs.sp = s.regs.sp := by
  cases r <;> rfl

@[simp] theorem State.setReg_regs_pc (s : State) (r : Reg8) (v : Byte) : (s.setReg r v).regs.pc = s.regs.pc := by
  cases r <;> rfl

@[simp] theorem State.reg_setReg_same (s : State) (r : Reg8) (v : Byte) : (s.setReg r v).reg r = v := by
  cases r <;> rfl

theorem State.reg_setReg_other (s : State) {r q : Reg8} (h : q ≠ r) (v : Byte) :
    (s.setReg r v).reg q = s.reg q := by
  cases r <;> cases q <;> first | rfl | exact absurd rfl h

/-- A register update is an update of `regs` alone. -/
theorem State.setReg_eq (s : State) (r : Reg8) (v : Byte) :
    s.setReg r v = { s with regs := (s.setReg r v).regs } := by
  cases r <;> rfl

@[simp] theorem State.reg_setPc (s : State) (v : Word) (r : Reg8) : (s.setPc v).reg r = s.reg r := by
  cases r <;> rfl

@[simp] theorem State.reg_setSp (s : State) (v : Word) (r : Reg8) : (s.setSp v).reg r = s.reg r := by
  cases r <;> rfl

@[simp] theorem State.reg_setCyc (s : State) (n : Nat) (r : Reg8) : (s.setCyc n).reg r = s.reg r := by
  cases r <;> rfl

@[simp] theorem State.reg_setF (s : State) (v : Byte) (r : Reg8) : (s.setF v).reg r = s.reg r := by
  cases r <;> rfl

@[simp] theorem State.reg_setFlags (s : State) (z n h c : Bool) (r : Reg8) :
    (s.setFlags z n h c).reg r = s.reg r := by
  cases r <;> rfl

/-! ### Pairs (rule R20) -/

@[simp] theorem hiByte_joinBytes (hi lo : Byte) : hiByte (joinBytes hi lo) = hi := by
  unfold hiByte joinBytes
  apply BitVec.eq_of_getLsbD_eq
  intro i hi'
  simp only [BitVec.getLsbD_extractLsb', BitVec.getLsbD_append]
  simp [hi']

@[simp] theorem loByte_joinBytes (hi lo : Byte) : loByte (joinBytes hi lo) = lo := by
  unfold loByte joinBytes
  apply BitVec.eq_of_getLsbD_eq
  intro i hi'
  simp only [BitVec.getLsbD_extractLsb', BitVec.getLsbD_append]
  simp [hi']

@[simp] theorem joinBytes_hi_lo (v : Word) : joinBytes (hiByte v) (loByte v) = v := by
  unfold hiByte loByte joinBytes
  apply BitVec.eq_of_getLsbD_eq
  intro i hi'
  simp only [BitVec.getLsbD_extractLsb', BitVec.getLsbD_append]
  by_cases h : i < 8
  · simp [h]
  · have h1 : i - 8 < 8 := by omega
    have h2 : 8 + (i - 8) = i := by omega
    simp [h, h1, h2]

@[simp] theorem State.bc_setBc (s : State) (v : Word) : (s.setBc v).bc = v := joinBytes_hi_lo v

@[simp] theorem State.de_setDe (s : State) (v : Word) : (s.setDe v).de = v := joinBytes_hi_lo v

@[simp] theorem State.hl_setHl (s : State) (v : Word) : (s.setHl v).hl = v := joinBytes_hi_lo v

@[simp] theorem State.rr_setRr (s : State) (p : PairRR) (v : Word) : (s.setRr p v).rr p = v := by
  cases p
  · exact joinBytes_hi_lo v
  · exact joinBytes_hi_lo v
  · exact joinBytes_hi_lo v
  · rfl

/-! ### Flags (rules R22, R23) -/

/-- The byte `packFlags` gives holds its four flags and a zero low nibble. -/
theorem packFlags_bits (z n h c : Bool) :
    (packFlags z n h c).getLsbD 7 = z ∧ (packFlags z n h c).getLsbD 6 = n ∧
    (packFlags z n h c).getLsbD 5 = h ∧ (packFlags z n h c).getLsbD 4 = c ∧
    packFlags z n h c &&& 0x0F = 0 := by
  cases z <;> cases n <;> cases h <;> cases c <;> decide

@[simp] theorem State.setFlags_fz (s : State) (z n h c : Bool) : (s.setFlags z n h c).fz = z :=
  (packFlags_bits z n h c).1

@[simp] theorem State.setFlags_fn (s : State) (z n h c : Bool) : (s.setFlags z n h c).fn = n :=
  (packFlags_bits z n h c).2.1

@[simp] theorem State.setFlags_fh (s : State) (z n h c : Bool) : (s.setFlags z n h c).fh = h :=
  (packFlags_bits z n h c).2.2.1

@[simp] theorem State.setFlags_fc (s : State) (z n h c : Bool) : (s.setFlags z n h c).fc = c :=
  (packFlags_bits z n h c).2.2.2.1

end Sys2Proof.Machine
end

