-- ==== Sys2Proof/Laws/Ops.lean ====
section
/-! SUPPORT. Laws of the shared operations: what each can answer, said once, and from them what any
instruction can do to the machine (`exec_move`). -/

namespace Sys2Proof.Machine

@[simp] theorem State.crash_run (s : State) (c : Fatal) : (s.crash c).run = .crashed c := rfl

@[simp] theorem State.crash_params (s : State) (c : Fatal) : (s.crash c).params = s.params := rfl

@[simp] theorem State.crash_host (s : State) (c : Fatal) : (s.crash c).host = s.host := rfl

@[simp] theorem State.crash_out (s : State) (c : Fatal) : (s.crash c).out = s.out := rfl

theorem State.retire_eq (s : State) (len n : Nat) :
    s.retire len n = .next (s.withCpu { s.regs with pc := s.regs.pc + BitVec.ofNat 16 len } n) := rfl

theorem State.jump_eq (s : State) (a : Word) (n : Nat) :
    s.jump a n = .next (s.withCpu { s.regs with pc := a } n) := rfl

/-! ## Loads, stores, pushes and pops: both outcomes -/

theorem State.withLoad_ok {s : State} {a : Word} {v : Byte} (h : s.readByte a = .ok v) (k : Byte → Result) :
    s.withLoad a k = k v := by
  simp [State.withLoad, h]

theorem State.withLoad_error {s : State} {a : Word} {c : Fatal} (h : s.readByte a = .error c)
    (k : Byte → Result) : s.withLoad a k = .next (s.crash c) := by
  simp [State.withLoad, h]

theorem State.withStore_done {s t : State} {a : Word} {v : Byte} (h : s.writeByte a v = .done () t)
    (k : State → Result) : s.withStore a v k = k t := by
  simp [State.withStore, h]

theorem State.withStore_fatal {s t : State} {a : Word} {v : Byte} {c : Fatal}
    (h : s.writeByte a v = .fatal c t) (k : State → Result) : s.withStore a v k = .next (t.crash c) := by
  simp [State.withStore, h]

/-- SP moved and one byte written at it, in terms of one bus write. -/
theorem State.pushByte_eq (s : State) (v : Byte) :
    s.pushByte v =
      (s.writeByte (s.regs.sp - 1) v).mapState fun t =>
        t.withCpu { s.regs with sp := s.regs.sp - 1 } s.cyc :=
  s.writeByte_withCpu { s.regs with sp := s.regs.sp - 1 } s.cyc (s.regs.sp - 1) v

theorem State.pushByte_done {s t : State} {v : Byte} (h : s.writeByte (s.regs.sp - 1) v = .done () t) :
    s.pushByte v = .done () (t.withCpu { s.regs with sp := s.regs.sp - 1 } s.cyc) := by
  rw [State.pushByte_eq, h]; rfl

/-- A push whose two writes complete: the high byte at SP - 1, the low byte at SP - 2. -/
theorem State.push16_done {s u t : State} {v : Word}
    (h1 : s.writeByte (s.regs.sp - 1) (hiByte v) = .done () u)
    (h2 : u.writeByte (s.regs.sp - 2) (loByte v) = .done () t) :
    s.push16 v = .done () (t.withCpu { s.regs with sp := s.regs.sp - 2 } s.cyc) := by
  have e : s.regs.sp - 1 - 1 = s.regs.sp - 2 := by bv_omega
  have h2' : (u.withCpu { s.regs with sp := s.regs.sp - 1 } s.cyc).pushByte (loByte v) =
      .done () (t.withCpu { s.regs with sp := s.regs.sp - 2 } s.cyc) := by
    rw [State.pushByte_eq, State.writeByte_withCpu]
    simp only [State.withCpu_regs, e, h2]
    rfl
  simp only [State.push16, State.pushByte_done h1, h2']

/-- A pop whose two reads succeed: the low byte from SP, the high byte from SP + 1. -/
theorem State.pop16_done {s : State} {lo hi : Byte} (h1 : s.readByte s.regs.sp = .ok lo)
    (h2 : s.readByte (s.regs.sp + 1) = .ok hi) :
    s.pop16 = .done (joinBytes hi lo) (s.withCpu { s.regs with sp := s.regs.sp + 2 } s.cyc) := by
  have e : s.regs.sp + 1 + 1 = s.regs.sp + 2 := by bv_omega
  have r : ∀ a, (s.setSp (s.regs.sp + 1)).readByte a = s.readByte a := fun _ => rfl
  simp only [State.pop16, State.popByte, h1, r, State.setSp_regs, h2, e]
  rfl

/-! ## What an instruction can do -/

/-- A sequence of what instructions do to the machine: a new set of CPU registers and a cycle report, a bus
write that completes at one of the addresses `A`, a new master-enable or suspension. -/
inductive CoreMove (A : List Word) : State → State → Prop
  | refl (s : State) : CoreMove A s s
  | cpu {s t : State} (r : Regs) (n : Nat) (h : CoreMove A s t) : CoreMove A s (t.withCpu r n)
  | write {s t u : State} (a : Word) (v : Byte) (h : CoreMove A s t) (ha : a ∈ A)
      (w : t.writeByte a v = .done () u) : CoreMove A s u
  | modes {s t : State} (ime halt stop : Bool) (p : Option Nat) (h : CoreMove A s t) :
      CoreMove A s { t with ime := ime, halt := halt, stop := stop, eiPending := p }

variable {A B : List Word}

/-- More addresses allow no fewer moves. -/
theorem CoreMove.mono {s t : State} (h : CoreMove A s t) (hab : ∀ a ∈ A, a ∈ B) : CoreMove B s t := by
  induction h with
  | refl => exact .refl _
  | cpu r n _ ih => exact .cpu r n ih
  | write a v _ ha w ih => exact .write a v ih (hab a ha) w
  | modes i a b p _ ih => exact .modes i a b p ih

theorem CoreMove.trans {s t u : State} (h : CoreMove A s t) (k : CoreMove A t u) : CoreMove A s u := by
  induction k with
  | refl => exact h
  | cpu r n _ ih => exact .cpu r n ih
  | write a v _ ha w ih => exact .write a v ih ha w
  | modes i a b p _ ih => exact .modes i a b p ih

/-- Moves leave the map and the overlay alone, or one of their writes is the BOOTOFF write. -/
theorem CoreMove.overlay {s t : State} (h : CoreMove A s t) :
    t.boot = s.boot ∧
    (t.busMap = s.busMap ∧ t.bootMapped = s.bootMapped ∨
      s.boot.isSome = true ∧ s.bootMapped = true ∧ t.bootMapped = false ∧
        ∃ a ∈ A, s.target a = some (.bootOff, 0xFF50)) := by
  induction h with
  | refl => exact ⟨rfl, .inl ⟨rfl, rfl⟩⟩
  | cpu _ _ _ ih => exact ih
  | modes _ _ _ _ _ ih => exact ih
  | @write t u a v _ ha w ih =>
    obtain ⟨hb, ih⟩ := ih
    have hu : u.boot = t.boot := by rw [State.writeByte_frame t u a v w]; rfl
    refine ⟨hu.trans hb, ?_⟩
    rcases ih with ⟨hm, hf⟩ | ⟨h1, h2, h3, h4⟩
    · rcases State.writeByte_overlay w with ⟨wm, wf⟩ | ⟨w1, w2, w3, rfl⟩
      · exact .inl ⟨wm.trans hm, wf.trans hf⟩
      · refine .inr ⟨hb ▸ w1, hf ▸ w2, rfl, a, ha, ?_⟩
        rw [← w3]; unfold State.target; rw [hm]
    · rcases State.writeByte_overlay w with ⟨-, wf⟩ | ⟨-, w2, -, -⟩
      · exact .inr ⟨h1, h2, wf.trans h3, h4⟩
      · rw [h3] at w2; cases w2

theorem CoreMove.setReg {s t : State} (h : CoreMove A s t) (r : Reg8) (v : Byte) : CoreMove A s (t.setReg r v) := by
  rw [State.setReg_eq]; exact .cpu (t.setReg r v).regs t.cyc h

theorem CoreMove.setFlags {s t : State} (h : CoreMove A s t) (z n c d : Bool) :
    CoreMove A s (t.setFlags z n c d) := .cpu { t.regs with f := packFlags z n c d } t.cyc h

theorem CoreMove.setF {s t : State} (h : CoreMove A s t) (v : Byte) : CoreMove A s (t.setF v) :=
  .cpu { t.regs with f := v &&& 0xF0 } t.cyc h

theorem CoreMove.setSp {s t : State} (h : CoreMove A s t) (v : Word) : CoreMove A s (t.setSp v) :=
  .cpu { t.regs with sp := v } t.cyc h

theorem CoreMove.setRr {s t : State} (h : CoreMove A s t) (p : PairRR) (v : Word) :
    CoreMove A s (t.setRr p v) := by
  cases p
  · exact (h.setReg .b (hiByte v)).setReg .c (loByte v)
  · exact (h.setReg .d (hiByte v)).setReg .e (loByte v)
  · exact (h.setReg .h (hiByte v)).setReg .l (loByte v)
  · exact h.setSp _

theorem CoreMove.setQq {s t : State} (h : CoreMove A s t) (p : PairQQ) (v : Word) :
    CoreMove A s (t.setQq p v) := by
  cases p
  · exact (h.setReg .b (hiByte v)).setReg .c (loByte v)
  · exact (h.setReg .d (hiByte v)).setReg .e (loByte v)
  · exact (h.setReg .h (hiByte v)).setReg .l (loByte v)
  · exact (h.setReg .a (hiByte v)).setF (loByte v)

/-- The result `x` is a next state that is either crashed or a `CoreMove` away from `s`, with no write outside `A`. -/
def MovesFrom (A : List Word) (s : State) (x : Result) : Prop :=
  ∃ t, x = .next t ∧ (CoreMove A s t ∨ ∃ c, t.run = .crashed c)

theorem MovesFrom.mono {s : State} {x : Result} (h : MovesFrom A s x) (hab : ∀ a ∈ A, a ∈ B) : MovesFrom B s x :=
  let ⟨t, hx, ht⟩ := h
  ⟨t, hx, ht.imp_left (·.mono hab)⟩

theorem CoreMove.retire {s t : State} (h : CoreMove A s t) (len n : Nat) : MovesFrom A s (t.retire len n) :=
  ⟨_, State.retire_eq t len n, .inl (.cpu _ _ h)⟩

theorem CoreMove.jump {s t : State} (h : CoreMove A s t) (a : Word) (n : Nat) : MovesFrom A s (t.jump a n) :=
  ⟨_, State.jump_eq t a n, .inl (.cpu _ _ h)⟩

theorem CoreMove.load {s t : State} (a : Word) (k : Byte → Result) (h : ∀ v, MovesFrom A s (k v)) :
    MovesFrom A s (t.withLoad a k) := by
  unfold State.withLoad
  split
  · exact h _
  · exact ⟨_, rfl, .inr ⟨_, rfl⟩⟩

theorem CoreMove.store {s t : State} (h : CoreMove A s t) (a : Word) (v : Byte) (k : State → Result) (ha : a ∈ A)
    (hk : ∀ u, CoreMove A s u → MovesFrom A s (k u)) : MovesFrom A s (t.withStore a v k) := by
  unfold State.withStore
  split
  · exact hk _ (.write a v h ha ‹_›)
  · exact ⟨_, rfl, .inr ⟨_, rfl⟩⟩

theorem CoreMove.storeWord {s t : State} (h : CoreMove A s t) (a v : Word) (k : State → Result)
    (ha : a ∈ A ∧ a + 1 ∈ A) (hk : ∀ u, CoreMove A s u → MovesFrom A s (k u)) : MovesFrom A s (t.withStoreWord a v k) := by
  unfold State.withStoreWord State.writeWord
  cases h1 : t.writeByte a (loByte v) with
  | fatal c u => exact ⟨_, rfl, .inr ⟨_, rfl⟩⟩
  | done _ u =>
    cases h2 : u.writeByte (a + 1) (hiByte v) with
    | fatal c w => simp only [h2]; exact ⟨_, rfl, .inr ⟨_, rfl⟩⟩
    | done _ w => simp only [h2]; exact hk _ (.write _ _ (.write _ _ h ha.1 h1) ha.2 h2)

theorem CoreMove.pushed {s t u : State} {v : Word} (h : CoreMove A s t) (hp : t.push16 v = .done () u)
    (ha : t.regs.sp - 1 ∈ A ∧ t.regs.sp - 2 ∈ A) : CoreMove A s u := by
  have e : t.regs.sp - 1 - 1 = t.regs.sp - 2 := by bv_omega
  unfold State.push16 at hp
  cases h1 : t.pushByte (hiByte v) with
  | fatal c w => simp [h1] at hp
  | done _ w =>
    simp only [h1] at hp
    have hr : w.regs.sp = t.regs.sp - 1 := by rw [State.writeByte_regs h1]; rfl
    have hw : CoreMove A s w := .write _ _ (h.setSp _) ha.1 h1
    exact .write _ _ (hw.setSp _) (by rw [hr, e]; exact ha.2) hp

theorem CoreMove.push {s t : State} (h : CoreMove A s t) (v : Word) (k : State → Result)
    (ha : t.regs.sp - 1 ∈ A ∧ t.regs.sp - 2 ∈ A) (hk : ∀ u, CoreMove A s u → MovesFrom A s (k u)) :
    MovesFrom A s (t.withPush v k) := by
  unfold State.withPush
  split
  · exact hk _ (h.pushed ‹_› ha)
  · exact ⟨_, rfl, .inr ⟨_, rfl⟩⟩

theorem CoreMove.popByte {s t u : State} {v : Byte} (h : CoreMove A s t) (hp : t.popByte = .done v u) :
    CoreMove A s u := by
  unfold State.popByte at hp
  split at hp
  · cases hp; exact h.setSp _
  · cases hp

theorem CoreMove.pop {s t : State} (h : CoreMove A s t) (k : Word → State → Result)
    (hk : ∀ v u, CoreMove A s u → MovesFrom A s (k v u)) : MovesFrom A s (t.withPop k) := by
  unfold State.withPop State.pop16
  cases h1 : t.popByte with
  | fatal c u => exact ⟨_, rfl, .inr ⟨_, rfl⟩⟩
  | done lo u =>
    cases h2 : u.popByte with
    | fatal c w => simp only [h2]; exact ⟨_, rfl, .inr ⟨_, rfl⟩⟩
    | done hi w => simp only [h2]; exact hk _ _ ((h.popByte h1).popByte h2)

theorem CoreMove.modify {s : State} (f : Byte → Byte) (k : Byte → State → Result)
    (hk : ∀ v u, CoreMove [s.hl] s u → MovesFrom [s.hl] s (k v u)) : MovesFrom [s.hl] s (s.modifyHl f k) :=
  CoreMove.load _ _ fun v => CoreMove.store (.refl s) _ _ _ (.head _) fun u hu => hk v u hu

theorem State.unrecognized_moves (s : State) : MovesFrom A s s.unrecognized := ⟨_, rfl, .inr ⟨_, rfl⟩⟩

theorem State.call_moves (s : State) (len : Nat) (a : Word) (n : Nat) :
    MovesFrom [s.regs.sp - 1, s.regs.sp - 2] s (s.call len a n) :=
  CoreMove.push (.refl s) _ _ ⟨.head _, .tail _ (.head _)⟩ fun _ hu => hu.jump _ _

theorem State.return_moves (s : State) (n : Nat) : MovesFrom A s (s.return n) :=
  CoreMove.pop (.refl s) _ fun _ _ hu => hu.jump _ _

theorem State.shiftReg_moves (s : State) (r : Reg8) (o : Byte × Bool) : MovesFrom A s (s.shiftReg r o) :=
  (((CoreMove.refl s).setReg _ _).setFlags _ _ _ _).retire _ _

theorem State.shiftHl_moves (s : State) (f : Byte → Byte × Bool) : MovesFrom [s.hl] s (s.shiftHl f) :=
  CoreMove.modify _ _ fun _ _ hu => (hu.setFlags _ _ _ _).retire _ _

end Sys2Proof.Machine
end

