-- ==== Sys2Proof/Laws/Exec.lean ====
section
/-! SUPPORT. What each instruction can do: a crash, or moves of registers and modes and bus writes at the addresses it
stores to; an instruction that stores nothing moves with no address allowed (any `A`). -/

namespace Sys2Proof.Machine

variable {A : List Word}

theorem execNop_moves (s : State) : MovesFrom A s (execNop s) := by
  unfold execNop; exact (CoreMove.refl s).retire _ _

theorem execLdBcA_moves (s : State) : MovesFrom [s.bc] s (execLdBcA s) := by
  unfold execLdBcA; exact CoreMove.store (.refl s) _ _ _ (.head _) fun _ hu => hu.retire _ _

theorem execLdDeA_moves (s : State) : MovesFrom [s.de] s (execLdDeA s) := by
  unfold execLdDeA; exact CoreMove.store (.refl s) _ _ _ (.head _) fun _ hu => hu.retire _ _

theorem execLdHliA_moves (s : State) : MovesFrom [s.hl] s (execLdHliA s) := by
  unfold execLdHliA; exact CoreMove.store (.refl s) _ _ _ (.head _) fun _ hu => (hu.setRr .hl _).retire _ _

theorem execLdHldA_moves (s : State) : MovesFrom [s.hl] s (execLdHldA s) := by
  unfold execLdHldA; exact CoreMove.store (.refl s) _ _ _ (.head _) fun _ hu => (hu.setRr .hl _).retire _ _

theorem execIncHlMem_moves (s : State) : MovesFrom [s.hl] s (execIncHlMem s) := by
  unfold execIncHlMem; exact CoreMove.modify _ _ fun _ _ hu => (hu.setFlags _ _ _ _).retire _ _

theorem execDecHlMem_moves (s : State) : MovesFrom [s.hl] s (execDecHlMem s) := by
  unfold execDecHlMem; exact CoreMove.modify _ _ fun _ _ hu => (hu.setFlags _ _ _ _).retire _ _

theorem execLdHlN_moves (n : Byte) (s : State) : MovesFrom [s.hl] s (execLdHlN n s) := by
  unfold execLdHlN; exact CoreMove.store (.refl s) _ _ _ (.head _) fun _ hu => hu.retire _ _

theorem execRlca_moves (s : State) : MovesFrom A s (execRlca s) := by
  unfold execRlca; exact (((CoreMove.refl s).setReg _ _).setFlags _ _ _ _).retire _ _

theorem execRrca_moves (s : State) : MovesFrom A s (execRrca s) := by
  unfold execRrca; exact (((CoreMove.refl s).setReg _ _).setFlags _ _ _ _).retire _ _

theorem execRla_moves (s : State) : MovesFrom A s (execRla s) := by
  unfold execRla; exact (((CoreMove.refl s).setReg _ _).setFlags _ _ _ _).retire _ _

theorem execRra_moves (s : State) : MovesFrom A s (execRra s) := by
  unfold execRra; exact (((CoreMove.refl s).setReg _ _).setFlags _ _ _ _).retire _ _

theorem execLdNnSp_moves (nn : Word) (s : State) : MovesFrom [nn, nn + 1] s (execLdNnSp nn s) := by
  unfold execLdNnSp; exact CoreMove.storeWord (.refl s) _ _ _ ⟨.head _, .tail _ (.head _)⟩ fun _ hu => hu.retire _ _

theorem execLdABc_moves (s : State) : MovesFrom A s (execLdABc s) := by
  unfold execLdABc; exact CoreMove.load _ _ fun _ => ((CoreMove.refl s).setReg _ _).retire _ _

theorem execLdADe_moves (s : State) : MovesFrom A s (execLdADe s) := by
  unfold execLdADe; exact CoreMove.load _ _ fun _ => ((CoreMove.refl s).setReg _ _).retire _ _

theorem execLdAHli_moves (s : State) : MovesFrom A s (execLdAHli s) := by
  unfold execLdAHli; exact CoreMove.load _ _ fun _ => (((CoreMove.refl s).setReg _ _).setRr .hl _).retire _ _

theorem execLdAHld_moves (s : State) : MovesFrom A s (execLdAHld s) := by
  unfold execLdAHld; exact CoreMove.load _ _ fun _ => (((CoreMove.refl s).setReg _ _).setRr .hl _).retire _ _

theorem execStop_moves (n : Byte) (s : State) : MovesFrom A s (execStop n s) := by
  unfold execStop; exact (CoreMove.modes s.ime s.halt true s.eiPending (.refl s)).retire _ _

theorem execJrE_moves (e : Byte) (s : State) : MovesFrom A s (execJrE e s) := by
  unfold execJrE; exact (CoreMove.refl s).jump _ _

theorem execDaa_moves (s : State) : MovesFrom A s (execDaa s) := by
  unfold execDaa; exact (((CoreMove.refl s).setReg _ _).setFlags _ _ _ _).retire _ _

theorem execCpl_moves (s : State) : MovesFrom A s (execCpl s) := by
  unfold execCpl; exact (((CoreMove.refl s).setReg _ _).setFlags _ _ _ _).retire _ _

theorem execScf_moves (s : State) : MovesFrom A s (execScf s) := by
  unfold execScf; exact ((CoreMove.refl s).setFlags _ _ _ _).retire _ _

theorem execCcf_moves (s : State) : MovesFrom A s (execCcf s) := by
  unfold execCcf; exact ((CoreMove.refl s).setFlags _ _ _ _).retire _ _

theorem execHalt_moves (s : State) : MovesFrom A s (execHalt s) := by
  unfold execHalt; exact (CoreMove.modes s.ime true s.stop s.eiPending (.refl s)).retire _ _

theorem execAddAHl_moves (s : State) : MovesFrom A s (execAddAHl s) := by
  unfold execAddAHl; exact CoreMove.load _ _ fun _ => (((CoreMove.refl s).setReg _ _).setFlags _ _ _ _).retire _ _

theorem execAdcAHl_moves (s : State) : MovesFrom A s (execAdcAHl s) := by
  unfold execAdcAHl; exact CoreMove.load _ _ fun _ => (((CoreMove.refl s).setReg _ _).setFlags _ _ _ _).retire _ _

theorem execSubHl_moves (s : State) : MovesFrom A s (execSubHl s) := by
  unfold execSubHl; exact CoreMove.load _ _ fun _ => (((CoreMove.refl s).setReg _ _).setFlags _ _ _ _).retire _ _

theorem execSbcAHl_moves (s : State) : MovesFrom A s (execSbcAHl s) := by
  unfold execSbcAHl; exact CoreMove.load _ _ fun _ => (((CoreMove.refl s).setReg _ _).setFlags _ _ _ _).retire _ _

theorem execAndHl_moves (s : State) : MovesFrom A s (execAndHl s) := by
  unfold execAndHl; exact CoreMove.load _ _ fun _ => (((CoreMove.refl s).setReg _ _).setFlags _ _ _ _).retire _ _

theorem execXorHl_moves (s : State) : MovesFrom A s (execXorHl s) := by
  unfold execXorHl; exact CoreMove.load _ _ fun _ => (((CoreMove.refl s).setReg _ _).setFlags _ _ _ _).retire _ _

theorem execOrHl_moves (s : State) : MovesFrom A s (execOrHl s) := by
  unfold execOrHl; exact CoreMove.load _ _ fun _ => (((CoreMove.refl s).setReg _ _).setFlags _ _ _ _).retire _ _

theorem execCpHl_moves (s : State) : MovesFrom A s (execCpHl s) := by
  unfold execCpHl; exact CoreMove.load _ _ fun _ => ((CoreMove.refl s).setFlags _ _ _ _).retire _ _

theorem execPopAf_moves (s : State) : MovesFrom A s (execPopAf s) := by
  unfold execPopAf; exact CoreMove.pop (.refl s) _ fun _ _ hu => (hu.setQq .af _).retire _ _

theorem execJpNn_moves (nn : Word) (s : State) : MovesFrom A s (execJpNn nn s) := by
  unfold execJpNn; exact (CoreMove.refl s).jump _ _

theorem execAddAN_moves (n : Byte) (s : State) : MovesFrom A s (execAddAN n s) := by
  unfold execAddAN; exact (((CoreMove.refl s).setReg _ _).setFlags _ _ _ _).retire _ _

theorem execAdcAN_moves (n : Byte) (s : State) : MovesFrom A s (execAdcAN n s) := by
  unfold execAdcAN; exact (((CoreMove.refl s).setReg _ _).setFlags _ _ _ _).retire _ _

theorem execSubN_moves (n : Byte) (s : State) : MovesFrom A s (execSubN n s) := by
  unfold execSubN; exact (((CoreMove.refl s).setReg _ _).setFlags _ _ _ _).retire _ _

theorem execSbcAN_moves (n : Byte) (s : State) : MovesFrom A s (execSbcAN n s) := by
  unfold execSbcAN; exact (((CoreMove.refl s).setReg _ _).setFlags _ _ _ _).retire _ _

theorem execAndN_moves (n : Byte) (s : State) : MovesFrom A s (execAndN n s) := by
  unfold execAndN; exact (((CoreMove.refl s).setReg _ _).setFlags _ _ _ _).retire _ _

theorem execXorN_moves (n : Byte) (s : State) : MovesFrom A s (execXorN n s) := by
  unfold execXorN; exact (((CoreMove.refl s).setReg _ _).setFlags _ _ _ _).retire _ _

theorem execOrN_moves (n : Byte) (s : State) : MovesFrom A s (execOrN n s) := by
  unfold execOrN; exact (((CoreMove.refl s).setReg _ _).setFlags _ _ _ _).retire _ _

theorem execCpN_moves (n : Byte) (s : State) : MovesFrom A s (execCpN n s) := by
  unfold execCpN; exact ((CoreMove.refl s).setFlags _ _ _ _).retire _ _

theorem execRet_moves (s : State) : MovesFrom A s (execRet s) := by
  unfold execRet; exact s.return_moves _

theorem execCallNn_moves (nn : Word) (s : State) : MovesFrom [s.regs.sp - 1, s.regs.sp - 2] s (execCallNn nn s) := by
  unfold execCallNn; exact s.call_moves _ _ _

theorem execReti_moves (s : State) : MovesFrom A s (execReti s) := by
  unfold execReti; exact CoreMove.pop (.refl s) _ fun _ u hu => (CoreMove.modes true u.halt u.stop u.eiPending hu).jump _ _

theorem execLdhNA_moves (n : Byte) (s : State) : MovesFrom [highPage n] s (execLdhNA n s) := by
  unfold execLdhNA; exact CoreMove.store (.refl s) _ _ _ (.head _) fun _ hu => hu.retire _ _

theorem execLdhAN_moves (n : Byte) (s : State) : MovesFrom A s (execLdhAN n s) := by
  unfold execLdhAN; exact CoreMove.load _ _ fun _ => ((CoreMove.refl s).setReg _ _).retire _ _

theorem execLdhCA_moves (s : State) : MovesFrom [s.highPageC] s (execLdhCA s) := by
  unfold execLdhCA; exact CoreMove.store (.refl s) _ _ _ (.head _) fun _ hu => hu.retire _ _

theorem execLdhAC_moves (s : State) : MovesFrom A s (execLdhAC s) := by
  unfold execLdhAC; exact CoreMove.load _ _ fun _ => ((CoreMove.refl s).setReg _ _).retire _ _

theorem execAddSpE_moves (e : Byte) (s : State) : MovesFrom A s (execAddSpE e s) := by
  unfold execAddSpE; exact (((CoreMove.refl s).setSp _).setFlags _ _ _ _).retire _ _

theorem execJpHl_moves (s : State) : MovesFrom A s (execJpHl s) := by
  unfold execJpHl; exact (CoreMove.refl s).jump _ _

theorem execLdNnA_moves (nn : Word) (s : State) : MovesFrom [nn] s (execLdNnA nn s) := by
  unfold execLdNnA; exact CoreMove.store (.refl s) _ _ _ (.head _) fun _ hu => hu.retire _ _

theorem execLdANn_moves (nn : Word) (s : State) : MovesFrom A s (execLdANn nn s) := by
  unfold execLdANn; exact CoreMove.load _ _ fun _ => ((CoreMove.refl s).setReg _ _).retire _ _

theorem execDi_moves (s : State) : MovesFrom A s (execDi s) := by
  unfold execDi; exact (CoreMove.modes false s.halt s.stop none (.refl s)).retire _ _

theorem execEi_moves (s : State) : MovesFrom A s (execEi s) := by
  unfold execEi State.enableInterrupts
  split_ifs
  · exact (CoreMove.modes true s.halt s.stop s.eiPending (.refl s)).retire _ _
  · exact (CoreMove.refl s).retire _ _
  · exact (CoreMove.modes s.ime s.halt s.stop (some s.params.eiDelay) (.refl s)).retire _ _

theorem execLdHlSpE_moves (e : Byte) (s : State) : MovesFrom A s (execLdHlSpE e s) := by
  unfold execLdHlSpE; exact (((CoreMove.refl s).setRr .hl _).setFlags _ _ _ _).retire _ _

theorem execLdSpHl_moves (s : State) : MovesFrom A s (execLdSpHl s) := by
  unfold execLdSpHl; exact ((CoreMove.refl s).setSp _).retire _ _

theorem execUnrecD3_moves (s : State) : MovesFrom A s (execUnrecD3 s) := by
  unfold execUnrecD3; exact s.unrecognized_moves

theorem execUnrecDB_moves (s : State) : MovesFrom A s (execUnrecDB s) := by
  unfold execUnrecDB; exact s.unrecognized_moves

theorem execUnrecDD_moves (s : State) : MovesFrom A s (execUnrecDD s) := by
  unfold execUnrecDD; exact s.unrecognized_moves

theorem execUnrecE3_moves (s : State) : MovesFrom A s (execUnrecE3 s) := by
  unfold execUnrecE3; exact s.unrecognized_moves

theorem execUnrecE4_moves (s : State) : MovesFrom A s (execUnrecE4 s) := by
  unfold execUnrecE4; exact s.unrecognized_moves

theorem execUnrecEB_moves (s : State) : MovesFrom A s (execUnrecEB s) := by
  unfold execUnrecEB; exact s.unrecognized_moves

theorem execUnrecEC_moves (s : State) : MovesFrom A s (execUnrecEC s) := by
  unfold execUnrecEC; exact s.unrecognized_moves

theorem execUnrecED_moves (s : State) : MovesFrom A s (execUnrecED s) := by
  unfold execUnrecED; exact s.unrecognized_moves

theorem execUnrecF4_moves (s : State) : MovesFrom A s (execUnrecF4 s) := by
  unfold execUnrecF4; exact s.unrecognized_moves

theorem execUnrecFC_moves (s : State) : MovesFrom A s (execUnrecFC s) := by
  unfold execUnrecFC; exact s.unrecognized_moves

theorem execUnrecFD_moves (s : State) : MovesFrom A s (execUnrecFD s) := by
  unfold execUnrecFD; exact s.unrecognized_moves

theorem execLdRrNn_moves (rr : PairRR) (nn : Word) (s : State) : MovesFrom A s (execLdRrNn rr nn s) := by
  unfold execLdRrNn; exact ((CoreMove.refl s).setRr _ _).retire _ _

theorem execIncRr_moves (rr : PairRR) (s : State) : MovesFrom A s (execIncRr rr s) := by
  unfold execIncRr; exact ((CoreMove.refl s).setRr _ _).retire _ _

theorem execAddHlRr_moves (rr : PairRR) (s : State) : MovesFrom A s (execAddHlRr rr s) := by
  unfold execAddHlRr; exact (((CoreMove.refl s).setRr .hl _).setFlags _ _ _ _).retire _ _

theorem execDecRr_moves (rr : PairRR) (s : State) : MovesFrom A s (execDecRr rr s) := by
  unfold execDecRr; exact ((CoreMove.refl s).setRr _ _).retire _ _

theorem execJrCcE_moves (cc : Cond) (e : Byte) (s : State) : MovesFrom A s (execJrCcE cc e s) := by
  unfold execJrCcE; split
  · exact (CoreMove.refl s).jump _ _
  · exact (CoreMove.refl s).retire _ _

theorem execRetCc_moves (cc : Cond) (s : State) : MovesFrom A s (execRetCc cc s) := by
  unfold execRetCc; split
  · exact s.return_moves _
  · exact (CoreMove.refl s).retire _ _

theorem execPopQq_moves (qq : PairQQ) (s : State) : MovesFrom A s (execPopQq qq s) := by
  unfold execPopQq; exact CoreMove.pop (.refl s) _ fun _ _ hu => (hu.setQq _ _).retire _ _

theorem execJpCcNn_moves (cc : Cond) (nn : Word) (s : State) : MovesFrom A s (execJpCcNn cc nn s) := by
  unfold execJpCcNn; split
  · exact (CoreMove.refl s).jump _ _
  · exact (CoreMove.refl s).retire _ _

theorem execCallCcNn_moves (cc : Cond) (nn : Word) (s : State) :
    MovesFrom (if s.holds cc then [s.regs.sp - 1, s.regs.sp - 2] else []) s (execCallCcNn cc nn s) := by
  unfold execCallCcNn; split_ifs
  · exact s.call_moves _ _ _
  · exact (CoreMove.refl s).retire _ _

theorem execPushQq_moves (qq : PairQQ) (s : State) : MovesFrom [s.regs.sp - 1, s.regs.sp - 2] s (execPushQq qq s) := by
  unfold execPushQq; exact CoreMove.push (.refl s) _ _ ⟨.head _, .tail _ (.head _)⟩ fun _ hu => hu.retire _ _

theorem execIncR_moves (r : Reg8) (s : State) : MovesFrom A s (execIncR r s) := by
  unfold execIncR; exact (((CoreMove.refl s).setReg _ _).setFlags _ _ _ _).retire _ _

theorem execDecR_moves (r : Reg8) (s : State) : MovesFrom A s (execDecR r s) := by
  unfold execDecR; exact (((CoreMove.refl s).setReg _ _).setFlags _ _ _ _).retire _ _

theorem execLdRN_moves (r : Reg8) (n : Byte) (s : State) : MovesFrom A s (execLdRN r n s) := by
  unfold execLdRN; exact ((CoreMove.refl s).setReg _ _).retire _ _

theorem execLdRHl_moves (r : Reg8) (s : State) : MovesFrom A s (execLdRHl r s) := by
  unfold execLdRHl; exact CoreMove.load _ _ fun _ => ((CoreMove.refl s).setReg _ _).retire _ _

theorem execLdHlR_moves (r : Reg8) (s : State) : MovesFrom [s.hl] s (execLdHlR r s) := by
  unfold execLdHlR; exact CoreMove.store (.refl s) _ _ _ (.head _) fun _ hu => hu.retire _ _

theorem execAddAR_moves (r : Reg8) (s : State) : MovesFrom A s (execAddAR r s) := by
  unfold execAddAR; exact (((CoreMove.refl s).setReg _ _).setFlags _ _ _ _).retire _ _

theorem execAdcAR_moves (r : Reg8) (s : State) : MovesFrom A s (execAdcAR r s) := by
  unfold execAdcAR; exact (((CoreMove.refl s).setReg _ _).setFlags _ _ _ _).retire _ _

theorem execSubR_moves (r : Reg8) (s : State) : MovesFrom A s (execSubR r s) := by
  unfold execSubR; exact (((CoreMove.refl s).setReg _ _).setFlags _ _ _ _).retire _ _

theorem execSbcAR_moves (r : Reg8) (s : State) : MovesFrom A s (execSbcAR r s) := by
  unfold execSbcAR; exact (((CoreMove.refl s).setReg _ _).setFlags _ _ _ _).retire _ _

theorem execAndR_moves (r : Reg8) (s : State) : MovesFrom A s (execAndR r s) := by
  unfold execAndR; exact (((CoreMove.refl s).setReg _ _).setFlags _ _ _ _).retire _ _

theorem execXorR_moves (r : Reg8) (s : State) : MovesFrom A s (execXorR r s) := by
  unfold execXorR; exact (((CoreMove.refl s).setReg _ _).setFlags _ _ _ _).retire _ _

theorem execOrR_moves (r : Reg8) (s : State) : MovesFrom A s (execOrR r s) := by
  unfold execOrR; exact (((CoreMove.refl s).setReg _ _).setFlags _ _ _ _).retire _ _

theorem execCpR_moves (r : Reg8) (s : State) : MovesFrom A s (execCpR r s) := by
  unfold execCpR; exact ((CoreMove.refl s).setFlags _ _ _ _).retire _ _

theorem execRstT_moves (t : BitVec 3) (s : State) : MovesFrom [s.regs.sp - 1, s.regs.sp - 2] s (execRstT t s) := by
  unfold execRstT; exact s.call_moves _ _ _

theorem execLdRR_moves (dst src : Reg8) (s : State) : MovesFrom A s (execLdRR dst src s) := by
  unfold execLdRR; exact ((CoreMove.refl s).setReg _ _).retire _ _

theorem execRlcHl_moves (s : State) : MovesFrom [s.hl] s (execRlcHl s) := by
  unfold execRlcHl; exact s.shiftHl_moves _

theorem execRrcHl_moves (s : State) : MovesFrom [s.hl] s (execRrcHl s) := by
  unfold execRrcHl; exact s.shiftHl_moves _

theorem execRlHl_moves (s : State) : MovesFrom [s.hl] s (execRlHl s) := by
  unfold execRlHl; exact s.shiftHl_moves _

theorem execRrHl_moves (s : State) : MovesFrom [s.hl] s (execRrHl s) := by
  unfold execRrHl; exact s.shiftHl_moves _

theorem execSlaHl_moves (s : State) : MovesFrom [s.hl] s (execSlaHl s) := by
  unfold execSlaHl; exact s.shiftHl_moves _

theorem execSraHl_moves (s : State) : MovesFrom [s.hl] s (execSraHl s) := by
  unfold execSraHl; exact s.shiftHl_moves _

theorem execSwapHl_moves (s : State) : MovesFrom [s.hl] s (execSwapHl s) := by
  unfold execSwapHl; exact s.shiftHl_moves _

theorem execSrlHl_moves (s : State) : MovesFrom [s.hl] s (execSrlHl s) := by
  unfold execSrlHl; exact s.shiftHl_moves _

theorem execRlcR_moves (r : Reg8) (s : State) : MovesFrom A s (execRlcR r s) := by
  unfold execRlcR; exact s.shiftReg_moves _ _

theorem execRrcR_moves (r : Reg8) (s : State) : MovesFrom A s (execRrcR r s) := by
  unfold execRrcR; exact s.shiftReg_moves _ _

theorem execRlR_moves (r : Reg8) (s : State) : MovesFrom A s (execRlR r s) := by
  unfold execRlR; exact s.shiftReg_moves _ _

theorem execRrR_moves (r : Reg8) (s : State) : MovesFrom A s (execRrR r s) := by
  unfold execRrR; exact s.shiftReg_moves _ _

theorem execSlaR_moves (r : Reg8) (s : State) : MovesFrom A s (execSlaR r s) := by
  unfold execSlaR; exact s.shiftReg_moves _ _

theorem execSraR_moves (r : Reg8) (s : State) : MovesFrom A s (execSraR r s) := by
  unfold execSraR; exact s.shiftReg_moves _ _

theorem execSwapR_moves (r : Reg8) (s : State) : MovesFrom A s (execSwapR r s) := by
  unfold execSwapR; exact s.shiftReg_moves _ _

theorem execSrlR_moves (r : Reg8) (s : State) : MovesFrom A s (execSrlR r s) := by
  unfold execSrlR; exact s.shiftReg_moves _ _

theorem execBitHl_moves (b : BitVec 3) (s : State) : MovesFrom A s (execBitHl b s) := by
  unfold execBitHl; exact CoreMove.load _ _ fun _ => ((CoreMove.refl s).setFlags _ _ _ _).retire _ _

theorem execResHl_moves (b : BitVec 3) (s : State) : MovesFrom [s.hl] s (execResHl b s) := by
  unfold execResHl; exact CoreMove.modify _ _ fun _ _ hu => hu.retire _ _

theorem execSetHl_moves (b : BitVec 3) (s : State) : MovesFrom [s.hl] s (execSetHl b s) := by
  unfold execSetHl; exact CoreMove.modify _ _ fun _ _ hu => hu.retire _ _

theorem execBitR_moves (b : BitVec 3) (r : Reg8) (s : State) : MovesFrom A s (execBitR b r s) := by
  unfold execBitR; exact ((CoreMove.refl s).setFlags _ _ _ _).retire _ _

theorem execResR_moves (b : BitVec 3) (r : Reg8) (s : State) : MovesFrom A s (execResR b r s) := by
  unfold execResR; exact ((CoreMove.refl s).setReg _ _).retire _ _

theorem execSetR_moves (b : BitVec 3) (r : Reg8) (s : State) : MovesFrom A s (execSetR b r s) := by
  unfold execSetR; exact ((CoreMove.refl s).setReg _ _).retire _ _

theorem execPrefixCb_moves (op2 : Byte) (s : State)
    (ha : op2.toNat % 8 = 6 → op2.toNat / 64 ≠ 1 → s.hl ∈ A) : MovesFrom A s (execPrefixCb op2 s) := by
  have hz : Reg8.ofCode (zField op2) = none → op2.toNat % 8 = 6 := by
    have e : (zField op2).toNat = op2.toNat % 8 := by simp [zField]
    unfold Reg8.ofCode
    rw [e]
    split <;> intro h <;> first | contradiction | (simp only [imp_false] at *; omega)
  have hl : op2.toNat % 8 = 6 → op2.toNat / 64 ≠ 1 → ∀ {x}, MovesFrom [s.hl] s x → MovesFrom A s x :=
    fun h1 h2 _ hx => hx.mono fun a h => List.mem_singleton.1 h ▸ ha h1 h2
  unfold execPrefixCb
  dsimp only
  split
  · exact execRlcR_moves _ s
  · exact execRrcR_moves _ s
  · exact execRlR_moves _ s
  · exact execRrR_moves _ s
  · exact execSlaR_moves _ s
  · exact execSraR_moves _ s
  · exact execSwapR_moves _ s
  · exact execSrlR_moves _ s
  · exact hl (hz ‹_›) (by omega) (execRlcHl_moves s)
  · exact hl (hz ‹_›) (by omega) (execRrcHl_moves s)
  · exact hl (hz ‹_›) (by omega) (execRlHl_moves s)
  · exact hl (hz ‹_›) (by omega) (execRrHl_moves s)
  · exact hl (hz ‹_›) (by omega) (execSlaHl_moves s)
  · exact hl (hz ‹_›) (by omega) (execSraHl_moves s)
  · exact hl (hz ‹_›) (by omega) (execSwapHl_moves s)
  · exact hl (hz ‹_›) (by omega) (execSrlHl_moves s)
  · split_ifs
    · exact execBitR_moves _ _ s
    · exact execResR_moves _ _ s
    · exact execSetR_moves _ _ s
  · split_ifs
    · exact execBitHl_moves _ s
    · exact hl (hz ‹_›) (by omega) (execResHl_moves _ s)
    · exact hl (hz ‹_›) (by omega) (execSetHl_moves _ s)

/-- Everything any instruction can do: it always answers a next state, which has crashed or is reached from
`s` by moves of `CoreMove` that write to the instruction's `storeAddresses` only. -/
theorem exec_move (i : Instr) (s : State) : MovesFrom (storeAddresses i s) s (exec i s) := by
  cases i with
  | nop => exact execNop_moves s
  | ldBcA => exact execLdBcA_moves s
  | ldDeA => exact execLdDeA_moves s
  | ldHliA => exact execLdHliA_moves s
  | ldHldA => exact execLdHldA_moves s
  | incHlMem => exact execIncHlMem_moves s
  | decHlMem => exact execDecHlMem_moves s
  | ldHlN n => exact execLdHlN_moves n s
  | rlca => exact execRlca_moves s
  | rrca => exact execRrca_moves s
  | rla => exact execRla_moves s
  | rra => exact execRra_moves s
  | ldNnSp nn => exact execLdNnSp_moves nn s
  | ldABc => exact execLdABc_moves s
  | ldADe => exact execLdADe_moves s
  | ldAHli => exact execLdAHli_moves s
  | ldAHld => exact execLdAHld_moves s
  | stop n => exact execStop_moves n s
  | jrE e => exact execJrE_moves e s
  | daa => exact execDaa_moves s
  | cpl => exact execCpl_moves s
  | scf => exact execScf_moves s
  | ccf => exact execCcf_moves s
  | halt => exact execHalt_moves s
  | addAHl => exact execAddAHl_moves s
  | adcAHl => exact execAdcAHl_moves s
  | subHl => exact execSubHl_moves s
  | sbcAHl => exact execSbcAHl_moves s
  | andHl => exact execAndHl_moves s
  | xorHl => exact execXorHl_moves s
  | orHl => exact execOrHl_moves s
  | cpHl => exact execCpHl_moves s
  | popAf => exact execPopAf_moves s
  | jpNn nn => exact execJpNn_moves nn s
  | addAN n => exact execAddAN_moves n s
  | adcAN n => exact execAdcAN_moves n s
  | subN n => exact execSubN_moves n s
  | sbcAN n => exact execSbcAN_moves n s
  | andN n => exact execAndN_moves n s
  | xorN n => exact execXorN_moves n s
  | orN n => exact execOrN_moves n s
  | cpN n => exact execCpN_moves n s
  | ret => exact execRet_moves s
  | prefixCb op2 => exact execPrefixCb_moves op2 s fun h1 h2 => by simp [storeAddresses, h1, h2]
  | callNn nn => exact execCallNn_moves nn s
  | reti => exact execReti_moves s
  | ldhNA n => exact execLdhNA_moves n s
  | ldhAN n => exact execLdhAN_moves n s
  | ldhCA => exact execLdhCA_moves s
  | ldhAC => exact execLdhAC_moves s
  | addSpE e => exact execAddSpE_moves e s
  | jpHl => exact execJpHl_moves s
  | ldNnA nn => exact execLdNnA_moves nn s
  | ldANn nn => exact execLdANn_moves nn s
  | di => exact execDi_moves s
  | ei => exact execEi_moves s
  | ldHlSpE e => exact execLdHlSpE_moves e s
  | ldSpHl => exact execLdSpHl_moves s
  | unrecD3 => exact execUnrecD3_moves s
  | unrecDB => exact execUnrecDB_moves s
  | unrecDD => exact execUnrecDD_moves s
  | unrecE3 => exact execUnrecE3_moves s
  | unrecE4 => exact execUnrecE4_moves s
  | unrecEB => exact execUnrecEB_moves s
  | unrecEC => exact execUnrecEC_moves s
  | unrecED => exact execUnrecED_moves s
  | unrecF4 => exact execUnrecF4_moves s
  | unrecFC => exact execUnrecFC_moves s
  | unrecFD => exact execUnrecFD_moves s
  | ldRrNn rr nn => exact execLdRrNn_moves rr nn s
  | incRr rr => exact execIncRr_moves rr s
  | addHlRr rr => exact execAddHlRr_moves rr s
  | decRr rr => exact execDecRr_moves rr s
  | jrCcE cc e => exact execJrCcE_moves cc e s
  | retCc cc => exact execRetCc_moves cc s
  | popQq qq => exact execPopQq_moves qq s
  | jpCcNn cc nn => exact execJpCcNn_moves cc nn s
  | callCcNn cc nn => exact execCallCcNn_moves cc nn s
  | pushQq qq => exact execPushQq_moves qq s
  | incR r => exact execIncR_moves r s
  | decR r => exact execDecR_moves r s
  | ldRN r n => exact execLdRN_moves r n s
  | ldRHl r => exact execLdRHl_moves r s
  | ldHlR r => exact execLdHlR_moves r s
  | addAR r => exact execAddAR_moves r s
  | adcAR r => exact execAdcAR_moves r s
  | subR r => exact execSubR_moves r s
  | sbcAR r => exact execSbcAR_moves r s
  | andR r => exact execAndR_moves r s
  | xorR r => exact execXorR_moves r s
  | orR r => exact execOrR_moves r s
  | cpR r => exact execCpR_moves r s
  | rstT t => exact execRstT_moves t s
  | ldRR dst src => exact execLdRR_moves dst src s
  | rlcHl => exact execRlcHl_moves s
  | rrcHl => exact execRrcHl_moves s
  | rlHl => exact execRlHl_moves s
  | rrHl => exact execRrHl_moves s
  | slaHl => exact execSlaHl_moves s
  | sraHl => exact execSraHl_moves s
  | swapHl => exact execSwapHl_moves s
  | srlHl => exact execSrlHl_moves s
  | rlcR r => exact execRlcR_moves r s
  | rrcR r => exact execRrcR_moves r s
  | rlR r => exact execRlR_moves r s
  | rrR r => exact execRrR_moves r s
  | slaR r => exact execSlaR_moves r s
  | sraR r => exact execSraR_moves r s
  | swapR r => exact execSwapR_moves r s
  | srlR r => exact execSrlR_moves r s
  | bitHl b => exact execBitHl_moves b s
  | resHl b => exact execResHl_moves b s
  | setHl b => exact execSetHl_moves b s
  | bitR b r => exact execBitR_moves b r s
  | resR b r => exact execResR_moves b r s
  | setR b r => exact execSetR_moves b r s

/-- No instruction answers a fault or a refusal. -/
theorem exec_next (i : Instr) (s : State) : ∃ t, exec i s = .next t :=
  let ⟨t, h, _⟩ := exec_move i s
  ⟨t, h⟩

end Sys2Proof.Machine
end

