-- ==== Sys2Proof/Laws/PerInstr.lean ====
section
/-! SUPPORT. Statements made per instruction. `Lengths`: the opcode byte of an encoding announces exactly the bytes
the encoding has, which is LEN of rules R148 and R150. -/

namespace Sys2Proof.Laws.Lengths

/-- The encoding of `i` starts with a byte that announces its length (rules R141, R153). -/
def Statement (i : Instr) : Prop :=
  i.wellFormed = true →
    ∃ op rest, encode i = op :: rest ∧ opLength op = i.length ∧ rest.length + 1 = i.length

theorem nop : Statement .nop := fun _ => ⟨_, _, rfl, rfl, rfl⟩

theorem ldBcA : Statement .ldBcA := fun _ => ⟨_, _, rfl, rfl, rfl⟩

theorem ldDeA : Statement .ldDeA := fun _ => ⟨_, _, rfl, rfl, rfl⟩

theorem ldHliA : Statement .ldHliA := fun _ => ⟨_, _, rfl, rfl, rfl⟩

theorem ldHldA : Statement .ldHldA := fun _ => ⟨_, _, rfl, rfl, rfl⟩

theorem incHlMem : Statement .incHlMem := fun _ => ⟨_, _, rfl, rfl, rfl⟩

theorem decHlMem : Statement .decHlMem := fun _ => ⟨_, _, rfl, rfl, rfl⟩

theorem ldHlN (n : Byte) : Statement (.ldHlN n) := fun _ => ⟨_, _, rfl, rfl, rfl⟩

theorem rlca : Statement .rlca := fun _ => ⟨_, _, rfl, rfl, rfl⟩

theorem rrca : Statement .rrca := fun _ => ⟨_, _, rfl, rfl, rfl⟩

theorem rla : Statement .rla := fun _ => ⟨_, _, rfl, rfl, rfl⟩

theorem rra : Statement .rra := fun _ => ⟨_, _, rfl, rfl, rfl⟩

theorem ldNnSp (nn : Word) : Statement (.ldNnSp nn) := fun _ => ⟨_, _, rfl, rfl, rfl⟩

theorem ldABc : Statement .ldABc := fun _ => ⟨_, _, rfl, rfl, rfl⟩

theorem ldADe : Statement .ldADe := fun _ => ⟨_, _, rfl, rfl, rfl⟩

theorem ldAHli : Statement .ldAHli := fun _ => ⟨_, _, rfl, rfl, rfl⟩

theorem ldAHld : Statement .ldAHld := fun _ => ⟨_, _, rfl, rfl, rfl⟩

theorem stop (n : Byte) : Statement (.stop n) := fun _ => ⟨_, _, rfl, rfl, rfl⟩

theorem jrE (e : Byte) : Statement (.jrE e) := fun _ => ⟨_, _, rfl, rfl, rfl⟩

theorem daa : Statement .daa := fun _ => ⟨_, _, rfl, rfl, rfl⟩

theorem cpl : Statement .cpl := fun _ => ⟨_, _, rfl, rfl, rfl⟩

theorem scf : Statement .scf := fun _ => ⟨_, _, rfl, rfl, rfl⟩

theorem ccf : Statement .ccf := fun _ => ⟨_, _, rfl, rfl, rfl⟩

theorem halt : Statement .halt := fun _ => ⟨_, _, rfl, rfl, rfl⟩

theorem addAHl : Statement .addAHl := fun _ => ⟨_, _, rfl, rfl, rfl⟩

theorem adcAHl : Statement .adcAHl := fun _ => ⟨_, _, rfl, rfl, rfl⟩

theorem subHl : Statement .subHl := fun _ => ⟨_, _, rfl, rfl, rfl⟩

theorem sbcAHl : Statement .sbcAHl := fun _ => ⟨_, _, rfl, rfl, rfl⟩

theorem andHl : Statement .andHl := fun _ => ⟨_, _, rfl, rfl, rfl⟩

theorem xorHl : Statement .xorHl := fun _ => ⟨_, _, rfl, rfl, rfl⟩

theorem orHl : Statement .orHl := fun _ => ⟨_, _, rfl, rfl, rfl⟩

theorem cpHl : Statement .cpHl := fun _ => ⟨_, _, rfl, rfl, rfl⟩

theorem popAf : Statement .popAf := fun _ => ⟨_, _, rfl, rfl, rfl⟩

theorem jpNn (nn : Word) : Statement (.jpNn nn) := fun _ => ⟨_, _, rfl, rfl, rfl⟩

theorem addAN (n : Byte) : Statement (.addAN n) := fun _ => ⟨_, _, rfl, rfl, rfl⟩

theorem adcAN (n : Byte) : Statement (.adcAN n) := fun _ => ⟨_, _, rfl, rfl, rfl⟩

theorem subN (n : Byte) : Statement (.subN n) := fun _ => ⟨_, _, rfl, rfl, rfl⟩

theorem sbcAN (n : Byte) : Statement (.sbcAN n) := fun _ => ⟨_, _, rfl, rfl, rfl⟩

theorem andN (n : Byte) : Statement (.andN n) := fun _ => ⟨_, _, rfl, rfl, rfl⟩

theorem xorN (n : Byte) : Statement (.xorN n) := fun _ => ⟨_, _, rfl, rfl, rfl⟩

theorem orN (n : Byte) : Statement (.orN n) := fun _ => ⟨_, _, rfl, rfl, rfl⟩

theorem cpN (n : Byte) : Statement (.cpN n) := fun _ => ⟨_, _, rfl, rfl, rfl⟩

theorem ret : Statement .ret := fun _ => ⟨_, _, rfl, rfl, rfl⟩

theorem prefixCb (op2 : Byte) : Statement (.prefixCb op2) := fun h => nomatch h

theorem callNn (nn : Word) : Statement (.callNn nn) := fun _ => ⟨_, _, rfl, rfl, rfl⟩

theorem reti : Statement .reti := fun _ => ⟨_, _, rfl, rfl, rfl⟩

theorem ldhNA (n : Byte) : Statement (.ldhNA n) := fun _ => ⟨_, _, rfl, rfl, rfl⟩

theorem ldhAN (n : Byte) : Statement (.ldhAN n) := fun _ => ⟨_, _, rfl, rfl, rfl⟩

theorem ldhCA : Statement .ldhCA := fun _ => ⟨_, _, rfl, rfl, rfl⟩

theorem ldhAC : Statement .ldhAC := fun _ => ⟨_, _, rfl, rfl, rfl⟩

theorem addSpE (e : Byte) : Statement (.addSpE e) := fun _ => ⟨_, _, rfl, rfl, rfl⟩

theorem jpHl : Statement .jpHl := fun _ => ⟨_, _, rfl, rfl, rfl⟩

theorem ldNnA (nn : Word) : Statement (.ldNnA nn) := fun _ => ⟨_, _, rfl, rfl, rfl⟩

theorem ldANn (nn : Word) : Statement (.ldANn nn) := fun _ => ⟨_, _, rfl, rfl, rfl⟩

theorem di : Statement .di := fun _ => ⟨_, _, rfl, rfl, rfl⟩

theorem ei : Statement .ei := fun _ => ⟨_, _, rfl, rfl, rfl⟩

theorem ldHlSpE (e : Byte) : Statement (.ldHlSpE e) := fun _ => ⟨_, _, rfl, rfl, rfl⟩

theorem ldSpHl : Statement .ldSpHl := fun _ => ⟨_, _, rfl, rfl, rfl⟩

theorem unrecD3 : Statement .unrecD3 := fun _ => ⟨_, _, rfl, rfl, rfl⟩

theorem unrecDB : Statement .unrecDB := fun _ => ⟨_, _, rfl, rfl, rfl⟩

theorem unrecDD : Statement .unrecDD := fun _ => ⟨_, _, rfl, rfl, rfl⟩

theorem unrecE3 : Statement .unrecE3 := fun _ => ⟨_, _, rfl, rfl, rfl⟩

theorem unrecE4 : Statement .unrecE4 := fun _ => ⟨_, _, rfl, rfl, rfl⟩

theorem unrecEB : Statement .unrecEB := fun _ => ⟨_, _, rfl, rfl, rfl⟩

theorem unrecEC : Statement .unrecEC := fun _ => ⟨_, _, rfl, rfl, rfl⟩

theorem unrecED : Statement .unrecED := fun _ => ⟨_, _, rfl, rfl, rfl⟩

theorem unrecF4 : Statement .unrecF4 := fun _ => ⟨_, _, rfl, rfl, rfl⟩

theorem unrecFC : Statement .unrecFC := fun _ => ⟨_, _, rfl, rfl, rfl⟩

theorem unrecFD : Statement .unrecFD := fun _ => ⟨_, _, rfl, rfl, rfl⟩

theorem ldRrNn (rr : PairRR) (nn : Word) : Statement (.ldRrNn rr nn) := by
  cases rr <;> exact fun _ => ⟨_, _, rfl, rfl, rfl⟩

theorem incRr (rr : PairRR) : Statement (.incRr rr) := by
  cases rr <;> exact fun _ => ⟨_, _, rfl, rfl, rfl⟩

theorem addHlRr (rr : PairRR) : Statement (.addHlRr rr) := by
  cases rr <;> exact fun _ => ⟨_, _, rfl, rfl, rfl⟩

theorem decRr (rr : PairRR) : Statement (.decRr rr) := by
  cases rr <;> exact fun _ => ⟨_, _, rfl, rfl, rfl⟩

theorem jrCcE (cc : Cond) (e : Byte) : Statement (.jrCcE cc e) := by
  cases cc <;> exact fun _ => ⟨_, _, rfl, rfl, rfl⟩

theorem retCc (cc : Cond) : Statement (.retCc cc) := by
  cases cc <;> exact fun _ => ⟨_, _, rfl, rfl, rfl⟩

theorem popQq (qq : PairQQ) : Statement (.popQq qq) := by
  cases qq <;> exact fun _ => ⟨_, _, rfl, rfl, rfl⟩

theorem jpCcNn (cc : Cond) (nn : Word) : Statement (.jpCcNn cc nn) := by
  cases cc <;> exact fun _ => ⟨_, _, rfl, rfl, rfl⟩

theorem callCcNn (cc : Cond) (nn : Word) : Statement (.callCcNn cc nn) := by
  cases cc <;> exact fun _ => ⟨_, _, rfl, rfl, rfl⟩

theorem pushQq (qq : PairQQ) : Statement (.pushQq qq) := by
  cases qq <;> exact fun _ => ⟨_, _, rfl, rfl, rfl⟩

theorem incR (r : Reg8) : Statement (.incR r) := by
  cases r <;> exact fun _ => ⟨_, _, rfl, rfl, rfl⟩

theorem decR (r : Reg8) : Statement (.decR r) := by
  cases r <;> exact fun _ => ⟨_, _, rfl, rfl, rfl⟩

theorem ldRN (r : Reg8) (n : Byte) : Statement (.ldRN r n) := by
  cases r <;> exact fun _ => ⟨_, _, rfl, rfl, rfl⟩

theorem ldRHl (r : Reg8) : Statement (.ldRHl r) := by
  cases r <;> exact fun _ => ⟨_, _, rfl, rfl, rfl⟩

theorem ldHlR (r : Reg8) : Statement (.ldHlR r) := by
  cases r <;> exact fun _ => ⟨_, _, rfl, rfl, rfl⟩

theorem addAR (r : Reg8) : Statement (.addAR r) := by
  cases r <;> exact fun _ => ⟨_, _, rfl, rfl, rfl⟩

theorem adcAR (r : Reg8) : Statement (.adcAR r) := by
  cases r <;> exact fun _ => ⟨_, _, rfl, rfl, rfl⟩

theorem subR (r : Reg8) : Statement (.subR r) := by
  cases r <;> exact fun _ => ⟨_, _, rfl, rfl, rfl⟩

theorem sbcAR (r : Reg8) : Statement (.sbcAR r) := by
  cases r <;> exact fun _ => ⟨_, _, rfl, rfl, rfl⟩

theorem andR (r : Reg8) : Statement (.andR r) := by
  cases r <;> exact fun _ => ⟨_, _, rfl, rfl, rfl⟩

theorem xorR (r : Reg8) : Statement (.xorR r) := by
  cases r <;> exact fun _ => ⟨_, _, rfl, rfl, rfl⟩

theorem orR (r : Reg8) : Statement (.orR r) := by
  cases r <;> exact fun _ => ⟨_, _, rfl, rfl, rfl⟩

theorem cpR (r : Reg8) : Statement (.cpR r) := by
  cases r <;> exact fun _ => ⟨_, _, rfl, rfl, rfl⟩

theorem rstT (t : BitVec 3) : Statement (.rstT t) := by
  intro _
  refine ⟨_, _, rfl, ?_, rfl⟩
  revert t; decide +kernel

theorem ldRR (dst : Reg8) (src : Reg8) : Statement (.ldRR dst src) := by
  cases dst <;> cases src <;> exact fun _ => ⟨_, _, rfl, rfl, rfl⟩

theorem rlcHl : Statement .rlcHl := fun _ => ⟨_, _, rfl, rfl, rfl⟩

theorem rrcHl : Statement .rrcHl := fun _ => ⟨_, _, rfl, rfl, rfl⟩

theorem rlHl : Statement .rlHl := fun _ => ⟨_, _, rfl, rfl, rfl⟩

theorem rrHl : Statement .rrHl := fun _ => ⟨_, _, rfl, rfl, rfl⟩

theorem slaHl : Statement .slaHl := fun _ => ⟨_, _, rfl, rfl, rfl⟩

theorem sraHl : Statement .sraHl := fun _ => ⟨_, _, rfl, rfl, rfl⟩

theorem swapHl : Statement .swapHl := fun _ => ⟨_, _, rfl, rfl, rfl⟩

theorem srlHl : Statement .srlHl := fun _ => ⟨_, _, rfl, rfl, rfl⟩

theorem rlcR (r : Reg8) : Statement (.rlcR r) := fun _ => ⟨_, _, rfl, rfl, rfl⟩

theorem rrcR (r : Reg8) : Statement (.rrcR r) := fun _ => ⟨_, _, rfl, rfl, rfl⟩

theorem rlR (r : Reg8) : Statement (.rlR r) := fun _ => ⟨_, _, rfl, rfl, rfl⟩

theorem rrR (r : Reg8) : Statement (.rrR r) := fun _ => ⟨_, _, rfl, rfl, rfl⟩

theorem slaR (r : Reg8) : Statement (.slaR r) := fun _ => ⟨_, _, rfl, rfl, rfl⟩

theorem sraR (r : Reg8) : Statement (.sraR r) := fun _ => ⟨_, _, rfl, rfl, rfl⟩

theorem swapR (r : Reg8) : Statement (.swapR r) := fun _ => ⟨_, _, rfl, rfl, rfl⟩

theorem srlR (r : Reg8) : Statement (.srlR r) := fun _ => ⟨_, _, rfl, rfl, rfl⟩

theorem bitHl (b : BitVec 3) : Statement (.bitHl b) := fun _ => ⟨_, _, rfl, rfl, rfl⟩

theorem resHl (b : BitVec 3) : Statement (.resHl b) := fun _ => ⟨_, _, rfl, rfl, rfl⟩

theorem setHl (b : BitVec 3) : Statement (.setHl b) := fun _ => ⟨_, _, rfl, rfl, rfl⟩

theorem bitR (b : BitVec 3) (r : Reg8) : Statement (.bitR b r) := fun _ => ⟨_, _, rfl, rfl, rfl⟩

theorem resR (b : BitVec 3) (r : Reg8) : Statement (.resR b r) := fun _ => ⟨_, _, rfl, rfl, rfl⟩

theorem setR (b : BitVec 3) (r : Reg8) : Statement (.setR b r) := fun _ => ⟨_, _, rfl, rfl, rfl⟩

end Sys2Proof.Laws.Lengths
end

