-- ==== Sys2Proof/Laws/Step.lean ====
section
/-! SUPPORT. What a step can do, said once (`step_cases`), and the principle that a property kept by every part
of a step is kept by the step (`KeptByParts.step`), or by what comes after the step's inputs
(`KeptByCore.stepPastInput`). -/

namespace Sys2Proof.Machine

/-! ## What the clocks touch -/

/-- The clocks reach the four units, the interrupt flags, the queued throttle draws and the outputs only. -/
theorem State.advanceClocks_frame (s : State) (n : Nat) :
    s.advanceClocks n =
      { s with
        timer := (s.advanceClocks n).timer, ppu := (s.advanceClocks n).ppu, apu := (s.advanceClocks n).apu
        cart := (s.advanceClocks n).cart, ifReg := (s.advanceClocks n).ifReg
        host := (s.advanceClocks n).host, out := (s.advanceClocks n).out } := rfl

@[simp] theorem State.advanceClocks_regs (s : State) (n : Nat) : (s.advanceClocks n).regs = s.regs := rfl

@[simp] theorem State.advanceClocks_run (s : State) (n : Nat) : (s.advanceClocks n).run = s.run := rfl

@[simp] theorem State.advanceClocks_ime (s : State) (n : Nat) : (s.advanceClocks n).ime = s.ime := rfl

@[simp] theorem State.advanceClocks_params (s : State) (n : Nat) : (s.advanceClocks n).params = s.params := rfl

@[simp] theorem State.advanceClocks_busMap (s : State) (n : Nat) : (s.advanceClocks n).busMap = s.busMap := rfl

theorem State.advanceClocks_timer (s : State) (n : Nat) :
    (s.advanceClocks n).timer = (TimerIo.advance ⟨s.timer, s.ifReg⟩ n).timer := rfl

theorem State.advanceClocks_cart (s : State) (n : Nat) :
    (s.advanceClocks n).cart = s.cart.rtcAdvance s.params.clockHz n := rfl

theorem ApuIo.resample_frame : ∀ (fuel : Nat) (x : ApuIo),
    (ApuIo.resample fuel x).host.ticks = x.host.ticks ∧ (ApuIo.resample fuel x).host.events = x.host.events
  | 0, _ => ⟨rfl, rfl⟩
  | fuel + 1, x => by
    unfold ApuIo.resample
    split_ifs
    · obtain ⟨h1, h2⟩ := ApuIo.resample_frame fuel x.emit
      have : x.emit.host.ticks = x.host.ticks ∧ x.emit.host.events = x.host.events := by
        unfold ApuIo.emit HostPort.draw; dsimp only; split <;> exact ⟨rfl, rfl⟩
      exact ⟨h1.trans this.1, h2.trans this.2⟩
    · exact ⟨rfl, rfl⟩

/-- The clocks take no entry and no event from the host. -/
theorem State.advanceClocks_inputs (s : State) (n : Nat) :
    (s.advanceClocks n).host.ticks = s.host.ticks ∧ (s.advanceClocks n).host.events = s.host.events :=
  ApuIo.resample_frame _ _

/-! ## The step, case by case -/

/-- Everything a step can be. `b` is the state past the host boundary, `p` the one past the joypad poll. -/
theorem step_cases {s t : State} (h : step s = .next t) :
    s.run = .running ∧
    ((s.hostBoundary.1.stopFlag = true ∧ t = { s.hostBoundary.2 with run := .exited }) ∨
     (s.hostBoundary.1.stopFlag = false ∧ s.hostBoundary.1.pauseFlag = true ∧ t = s.hostBoundary.2) ∨
     (s.hostBoundary.1.stopFlag = false ∧ s.hostBoundary.1.pauseFlag = false ∧
       ∃ p, p = s.hostBoundary.2.pollJoypad ∧
        (((p.halt || p.stop) = true ∧ t = p.idleStep) ∨
         ((p.halt || p.stop) = false ∧
          ((∃ c, p.fetch = .error c ∧ t = p.crash c) ∨
           (∃ i u, p.fetch = .ok i ∧ exec i p = .next u ∧ t = u.endOfStep p.eiPending)))))) := by
  unfold step at h
  cases hr : s.run with
  | crashed c => simp [hr] at h
  | exited => simp [hr] at h
  | running =>
    refine ⟨rfl, ?_⟩
    simp only [hr] at h
    split_ifs at h with h1 h2
    · injection h with h; exact .inl ⟨h1, h.symm⟩
    · injection h with h; exact .inr (.inl ⟨by simpa using h1, h2, h.symm⟩)
    · refine .inr (.inr ⟨by simpa using h1, by simpa using h2, _, rfl, ?_⟩)
      unfold State.runStep at h
      simp only at h
      split_ifs at h with h3
      · injection h with h; exact .inl ⟨h3, h.symm⟩
      · refine .inr ⟨by simpa using h3, ?_⟩
        unfold State.executeStep at h
        split at h
        · injection h with h; exact .inl ⟨_, ‹_›, h.symm⟩
        · rename_i i hf
          obtain ⟨u, hu⟩ := exec_next i s.hostBoundary.2.pollJoypad
          rw [hu] at h
          injection h with h
          exact .inr ⟨i, u, hf, hu, h.symm⟩

/-- Where no flag is shown, the state past the inputs is `afterInput`. -/
theorem State.PastBoundary.eq {s : State} (h : s.PastBoundary) :
    s.hostBoundary.1.stopFlag = false ∧ s.hostBoundary.1.pauseFlag = false ∧
      s.hostBoundary.2.pollJoypad = s.afterInput := by
  unfold State.hostBoundary State.afterInput
  cases ht : s.host.ticks with
  | nil => exact ⟨rfl, rfl, rfl⟩
  | cons tick rest => exact ⟨(h.2 tick rest ht).1, (h.2 tick rest ht).2, rfl⟩

/-- A step past the boundary is the running step of `afterInput`. -/
theorem step_pastBoundary {s : State} (h : s.PastBoundary) :
    step s = if s.afterInput.halt || s.afterInput.stop then .next s.afterInput.idleStep
      else s.afterInput.executeStep := by
  obtain ⟨h1, h2, h3⟩ := h.eq
  unfold step
  rw [h.1]
  simp only [h1, h2, Bool.false_eq_true, if_false]
  unfold State.runStep
  rw [h3]

/-- A property of states kept by every part of a step after its inputs are taken: a change of CPU registers, of modes,
of the interrupt flags, a bus write, the clocks. -/
structure KeptByCore (P : State → Prop) : Prop where
  cpu : ∀ s r n, P s → P (s.withCpu r n)
  modes : ∀ (s : State) i h q p, P s → P { s with ime := i, halt := h, stop := q, eiPending := p }
  flags : ∀ s v, P s → P { s with ifReg := v }
  write : ∀ s t a v, P s → s.writeByte a v = .done () t → P t
  clocks : ∀ s n, P s → P (s.advanceClocks n)

namespace KeptByCore

variable {P : State → Prop} (k : KeptByCore P)
include k

theorem move {A : List Word} {s t : State} (m : CoreMove A s t) (h : P s) : P t := by
  induction m with
  | refl => exact h
  | cpu r n _ ih => exact k.cpu _ r n ih
  | write a v _ _ w ih => exact k.write _ _ a v ih w
  | modes i a b p _ ih => exact k.modes _ i a b p ih

theorem takeInterrupt {s : State} (i : Nat) (h : P s) (ha : (s.takeInterrupt i).Alive) :
    P (s.takeInterrupt i) := by
  unfold State.takeInterrupt at ha ⊢
  dsimp only at ha ⊢
  split at ha
  · rename_i c u _
    exact absurd rfl (ha c)
  · rename_i u hp
    have h1 := k.modes _ false s.halt s.stop s.eiPending (k.flags s (s.ifReg &&& ~~~((1 : Byte) <<< i)) h)
    have m : CoreMove [s.regs.sp - 1, s.regs.sp - 2] _ u := .pushed (.refl _) hp ⟨.head _, .tail _ (.head _)⟩
    have h2 := k.move m h1
    have h3 := k.cpu _ { u.regs with pc := vectorOf i } u.cyc h2
    show P (State.dispatchClocks (u.setPc (vectorOf i)))
    unfold State.dispatchClocks
    split
    · exact h3
    · exact k.clocks _ _ h3

theorem service {s : State} (h : P s) (ha : s.serviceInterrupts.Alive) : P s.serviceInterrupts := by
  have hw : P s.wake := by
    unfold State.wake
    dsimp only
    split_ifs <;> first | exact h | exact k.modes s s.ime false _ s.eiPending h
  unfold State.serviceInterrupts State.dispatch at ha ⊢
  split
  · split
    · rename_i h1 _ i h2
      simp only [h1, if_true, h2] at ha
      exact k.takeInterrupt i hw ha
    · exact hw
  · exact hw

theorem settle {s : State} (b : Option Nat) (h : P s) : P (s.settleEnable b) := by
  unfold State.settleEnable
  split
  · split_ifs
    · exact k.modes s true s.halt s.stop none h
    · exact k.modes s s.ime s.halt s.stop _ h
  · exact h

theorem endOfStep {s : State} (b : Option Nat) (h : P s) (ha : (s.endOfStep b).Alive) :
    P (s.endOfStep b) := by
  unfold State.endOfStep at ha ⊢
  split
  · rename_i hr
    simp only [hr] at ha
    exact k.service (k.clocks _ _ (k.settle b h)) ha
  · exact h

/-- A step past the host boundary that does not crash keeps `P` from the state its inputs leave on. -/
theorem stepPastInput {s t : State} (hs : Machine.step s = .next t) (ha : t.Alive)
    (h0 : s.hostBoundary.1.stopFlag = false) (h1 : s.hostBoundary.1.pauseFlag = false)
    (hp : P s.hostBoundary.2.pollJoypad) : P t := by
  obtain ⟨-, ⟨h, -⟩ | ⟨-, h, -⟩ | ⟨-, -, p, rfl, hc⟩⟩ := step_cases hs
  · rw [h0] at h; cases h
  · rw [h1] at h; cases h
  · rcases hc with ⟨-, rfl⟩ | ⟨-, ⟨c, -, rfl⟩ | ⟨i, u, -, hu, rfl⟩⟩
    · exact k.service (k.clocks _ _ (k.cpu _ _ _ hp)) ha
    · exact absurd rfl (ha c)
    · obtain ⟨u', hu', hm⟩ := exec_move i s.hostBoundary.2.pollJoypad
      rw [hu] at hu'
      injection hu' with hu'
      subst hu'
      rcases hm with hm | ⟨c, hc⟩
      · exact k.endOfStep _ (k.move hm hp) ha
      · unfold State.endOfStep at ha
        rw [hc] at ha
        exact absurd hc (ha c)

end KeptByCore

/-- A property of states kept by every part of a step: those of `KeptByCore`, and a change of the host port, of the run
status to exited, a button. -/
structure KeptByParts (P : State → Prop) : Prop extends KeptByCore P where
  host : ∀ s h, P s → P { s with host := h }
  exited : ∀ s, P s → P { s with run := .exited }
  button : ∀ s p, P s → P { s with joypad := { s.joypad with pressed := p } }

namespace KeptByParts

variable {P : State → Prop} (k : KeptByParts P)
include k

theorem applyButton {s : State} (ev : ButtonEvent) (h : P s) : P (s.applyButton ev) := by
  have h1 := k.button s (s.joypad.pressed.set ev.button ev.pressed) h
  have h2 := k.modes _ s.ime s.halt false s.eiPending h1
  exact k.flags _ _ h2

theorem poll {s : State} (h : P s) : P s.pollJoypad := by
  unfold State.pollJoypad
  split
  · exact h
  · exact k.applyButton _ (k.host _ _ h)

theorem boundary {s : State} (h : P s) : P s.hostBoundary.2 := by
  unfold State.hostBoundary
  split
  · exact h
  · exact k.host _ _ h

/-- The principle: a step that does not crash keeps `P`. -/
theorem step {s t : State} (h : P s) (hs : Machine.step s = .next t) (ha : t.Alive) : P t := by
  have hb := k.boundary h
  rcases (step_cases hs).2 with ⟨-, rfl⟩ | ⟨-, -, rfl⟩ | ⟨h0, h1, -⟩
  · exact k.exited _ hb
  · exact hb
  · exact k.stepPastInput hs ha h0 h1 (k.poll hb)

end KeptByParts

end Sys2Proof.Machine
end

