-- ==== Sys2Proof/Tests/Slice0.lean ====
section
/-! SUPPORT. The model's own tests: ill-formed terms, one written word per constructor, single steps from the spec's
vectors (95_test_vectors.md), unit vectors, and a witness for each statement with hypotheses. -/

namespace Sys2Proof.Tests

open Sys2Proof.Machine

/-! ## Well-formedness: the check refuses both ill-formed terms -/

theorem test_wf_refuses_pop_af : (Instr.popQq .af).wellFormed = false := by decide

theorem test_wf_refuses_bare_prefix : (Instr.prefixCb 0x37).wellFormed = false := by decide

theorem test_wf_admits : (Instr.popQq .hl).wellFormed = true ∧ (Instr.swapR .a).wellFormed = true := by decide

/-- The instruction that `bs` are exactly the bytes of. -/
def reads (bs : List Byte) : Option Instr :=
  match decode bs with
  | .ok (i, []) => some i
  | _ => none

/-! ## One word per constructor, written from the bit patterns of rules R148 and R150 -/

theorem test_decode_system :
    reads [0b00000000] = some .nop ∧
    reads [0b00010000, 0x9C] = some (.stop 0x9C) ∧
    reads [0b01110110] = some .halt ∧
    reads [0b11110011] = some .di ∧
    reads [0b11111011] = some .ei ∧
    reads [0b11010011] = some .unrecD3 ∧
    reads [0b11011011] = some .unrecDB ∧
    reads [0b11011101] = some .unrecDD ∧
    reads [0b11100011] = some .unrecE3 ∧
    reads [0b11100100] = some .unrecE4 ∧
    reads [0b11101011] = some .unrecEB ∧
    reads [0b11101100] = some .unrecEC ∧
    reads [0b11101101] = some .unrecED ∧
    reads [0b11110100] = some .unrecF4 ∧
    reads [0b11111100] = some .unrecFC ∧
    reads [0b11111101] = some .unrecFD := by
  decide

theorem test_decode_load8_1 :
    reads [0b00000010] = some .ldBcA ∧
    reads [0b00010010] = some .ldDeA ∧
    reads [0b00100010] = some .ldHliA ∧
    reads [0b00110010] = some .ldHldA ∧
    reads [0b00110110, 0x9C] = some (.ldHlN 0x9C) ∧
    reads [0b00001010] = some .ldABc ∧
    reads [0b00011010] = some .ldADe ∧
    reads [0b00101010] = some .ldAHli ∧
    reads [0b00111010] = some .ldAHld ∧
    reads [0b11100000, 0x9C] = some (.ldhNA 0x9C) ∧
    reads [0b11110000, 0x9C] = some (.ldhAN 0x9C) ∧
    reads [0b11100010] = some .ldhCA ∧
    reads [0b11110010] = some .ldhAC ∧
    reads [0b11101010, 0x23, 0xC1] = some (.ldNnA 0xC123) ∧
    reads [0b11111010, 0x23, 0xC1] = some (.ldANn 0xC123) ∧
    reads [0b00011110, 0x9C] = some (.ldRN .e 0x9C) := by
  decide

theorem test_decode_load8_2 :
    reads [0b01000110] = some (.ldRHl .b) ∧
    reads [0b01110111] = some (.ldHlR .a) ∧
    reads [0b01001101] = some (.ldRR .c .l) := by
  decide

theorem test_decode_alu8_1 :
    reads [0b00110100] = some .incHlMem ∧
    reads [0b00110101] = some .decHlMem ∧
    reads [0b00100111] = some .daa ∧
    reads [0b00101111] = some .cpl ∧
    reads [0b00110111] = some .scf ∧
    reads [0b00111111] = some .ccf ∧
    reads [0b10000110] = some .addAHl ∧
    reads [0b10001110] = some .adcAHl ∧
    reads [0b10010110] = some .subHl ∧
    reads [0b10011110] = some .sbcAHl ∧
    reads [0b10100110] = some .andHl ∧
    reads [0b10101110] = some .xorHl ∧
    reads [0b10110110] = some .orHl ∧
    reads [0b10111110] = some .cpHl ∧
    reads [0b11000110, 0x9C] = some (.addAN 0x9C) ∧
    reads [0b11001110, 0x9C] = some (.adcAN 0x9C) := by
  decide

theorem test_decode_alu8_2 :
    reads [0b11010110, 0x9C] = some (.subN 0x9C) ∧
    reads [0b11011110, 0x9C] = some (.sbcAN 0x9C) ∧
    reads [0b11100110, 0x9C] = some (.andN 0x9C) ∧
    reads [0b11101110, 0x9C] = some (.xorN 0x9C) ∧
    reads [0b11110110, 0x9C] = some (.orN 0x9C) ∧
    reads [0b11111110, 0x9C] = some (.cpN 0x9C) ∧
    reads [0b00001100] = some (.incR .c) ∧
    reads [0b00101101] = some (.decR .l) ∧
    reads [0b10000010] = some (.addAR .d) ∧
    reads [0b10001100] = some (.adcAR .h) ∧
    reads [0b10010001] = some (.subR .c) ∧
    reads [0b10011101] = some (.sbcAR .l) ∧
    reads [0b10100011] = some (.andR .e) ∧
    reads [0b10101000] = some (.xorR .b) ∧
    reads [0b10110111] = some (.orR .a) ∧
    reads [0b10111010] = some (.cpR .d) := by
  decide

theorem test_decode_rotate_shift_bit_1 :
    reads [0b00000111] = some .rlca ∧
    reads [0b00001111] = some .rrca ∧
    reads [0b00010111] = some .rla ∧
    reads [0b00011111] = some .rra ∧
    reads [0b11001011, 0b00000110] = some .rlcHl ∧
    reads [0b11001011, 0b00001110] = some .rrcHl ∧
    reads [0b11001011, 0b00010110] = some .rlHl ∧
    reads [0b11001011, 0b00011110] = some .rrHl ∧
    reads [0b11001011, 0b00100110] = some .slaHl ∧
    reads [0b11001011, 0b00101110] = some .sraHl ∧
    reads [0b11001011, 0b00110110] = some .swapHl ∧
    reads [0b11001011, 0b00111110] = some .srlHl ∧
    reads [0b11001011, 0b00000011] = some (.rlcR .e) ∧
    reads [0b11001011, 0b00001000] = some (.rrcR .b) ∧
    reads [0b11001011, 0b00010111] = some (.rlR .a) ∧
    reads [0b11001011, 0b00011010] = some (.rrR .d) := by
  decide

theorem test_decode_rotate_shift_bit_2 :
    reads [0b11001011, 0b00100100] = some (.slaR .h) ∧
    reads [0b11001011, 0b00101001] = some (.sraR .c) ∧
    reads [0b11001011, 0b00110101] = some (.swapR .l) ∧
    reads [0b11001011, 0b00111011] = some (.srlR .e) ∧
    reads [0b11001011, 0b01111110] = some (.bitHl 7) ∧
    reads [0b11001011, 0b10010110] = some (.resHl 2) ∧
    reads [0b11001011, 0b11101110] = some (.setHl 5) ∧
    reads [0b11001011, 0b01000001] = some (.bitR 0 .c) ∧
    reads [0b11001011, 0b10110011] = some (.resR 6 .e) ∧
    reads [0b11001011, 0b11100111] = some (.setR 4 .a) := by
  decide

theorem test_decode_load16 :
    reads [0b00001000, 0x23, 0xC1] = some (.ldNnSp 0xC123) ∧
    reads [0b11110001] = some .popAf ∧
    reads [0b11111000, 0x9C] = some (.ldHlSpE 0x9C) ∧
    reads [0b11111001] = some .ldSpHl ∧
    reads [0b00010001, 0x23, 0xC1] = some (.ldRrNn .de 0xC123) ∧
    reads [0b11000001] = some (.popQq .bc) ∧
    reads [0b11110101] = some (.pushQq .af) := by
  decide

theorem test_decode_control :
    reads [0b00011000, 0x9C] = some (.jrE 0x9C) ∧
    reads [0b11000011, 0x23, 0xC1] = some (.jpNn 0xC123) ∧
    reads [0b11001001] = some .ret ∧
    reads [0b11001101, 0x23, 0xC1] = some (.callNn 0xC123) ∧
    reads [0b11011001] = some .reti ∧
    reads [0b11101001] = some .jpHl ∧
    reads [0b00110000, 0x9C] = some (.jrCcE .nc 0x9C) ∧
    reads [0b11011000] = some (.retCc .c) ∧
    reads [0b11001010, 0x23, 0xC1] = some (.jpCcNn .z 0xC123) ∧
    reads [0b11010100, 0x23, 0xC1] = some (.callCcNn .nc 0xC123) ∧
    reads [0b11110111] = some (.rstT 6) := by
  decide

theorem test_decode_alu16 :
    reads [0b11101000, 0x9C] = some (.addSpE 0x9C) ∧
    reads [0b00100011] = some (.incRr .hl) ∧
    reads [0b00111001] = some (.addHlRr .sp) ∧
    reads [0b00001011] = some (.decRr .bc) := by
  decide

/-- The prefix's row word is read as the extended instruction its second byte selects. -/
theorem test_decode_prefix : decodeTableWord 16 0xCB37 = some (.swapR .a) ∧
    decodeTableWord 8 0xCB = some (.rlcR .b) ∧ reads [0xCB] = none := by
  decide

/-! ## Single steps -/

/-- The ResetState of the start state T0: RESET_BOOT with PC = 0x0100 and `boot_mapped` = false. -/
def quietReset : ResetState :=
  let r := ResetState.presetBoot Config.defaultParams
  { r with regs := { r.regs with pc := 0x0100 }, bootMapped := false }

/-- The start state T0 of 95_test_vectors.md: every register 0 but PC = 0x0100, no boot image, the bytes at 0x0100
of a cartridge of 0x8000 bytes, every device quiet. -/
def t0 (bytes : List Byte) : State :=
  State.create Config.defaultParams defaultUnits none ⟨.null, ⟨Memory.ofBytes 0x100 bytes, 0x8000⟩, [], 0⟩
    HostPort.quiet quietReset

/-- T0 with the CPU registers A F B C D E H L SP PC. -/
def t0At (bytes : List Byte) (r : Regs) : State := { t0 bytes with regs := r }

/-- `s` with bytes of work RAM set, given as (offset, byte) pairs in rising order. -/
def withWram (m : Memory) (s : State) : State := { s with wram := m }

/-- `f` of the state after one step, if there is one. -/
def after {α : Type} (s : State) (f : State → α) : Option α :=
  match step s with
  | .next t => some (f t)
  | _ => none

/-- The registers and the cycles after one step. -/
def seen (s : State) : Option (Regs × Nat) := after s fun t => (t.regs, t.cyc)

/-- The byte at a bus address after one step. -/
def byteAfter (s : State) (a : Word) : Option Byte := (after s fun t => (t.readByte a).toOption).join

theorem test_ld_r_r_1 :
    let s : State := (t0At [0x41] ⟨0x00, 0xF0, 0x11, 0x22, 0x00, 0x00, 0x00, 0x00, 0x0000, 0x0100⟩)
    seen s = some (⟨0x00, 0xF0, 0x22, 0x22, 0x00, 0x00, 0x00, 0x00, 0x0000, 0x0101⟩, 4) := by
  decide

theorem test_ld_r_n_1 :
    let s : State := (t0At [0x16, 0x9C] ⟨0x00, 0x00, 0x00, 0x00, 0x00, 0x00, 0x00, 0x00, 0x0000, 0x0100⟩)
    seen s = some (⟨0x00, 0x00, 0x00, 0x00, 0x9C, 0x00, 0x00, 0x00, 0x0000, 0x0102⟩, 8) := by
  decide

theorem test_ld_r_hl_1 :
    let s : State := { t0At [0x7E] ⟨0x00, 0x00, 0x00, 0x00, 0x00, 0x00, 0xC0, 0x10, 0x0000, 0x0100⟩ with wram := [(16, 0x77)] }
    seen s = some (⟨0x77, 0x00, 0x00, 0x00, 0x00, 0x00, 0xC0, 0x10, 0x0000, 0x0101⟩, 8) := by
  decide

theorem test_ld_hl_r_1 :
    let s : State := (t0At [0x73] ⟨0x00, 0x00, 0x00, 0x00, 0x00, 0x3E, 0xC0, 0x10, 0x0000, 0x0100⟩)
    seen s = some (⟨0x00, 0x00, 0x00, 0x00, 0x00, 0x3E, 0xC0, 0x10, 0x0000, 0x0101⟩, 8) ∧
    byteAfter s 0xC010 = some 0x3E := by
  decide

theorem test_ld_hl_n_1 :
    let s : State := (t0At [0x36, 0x5A] ⟨0x00, 0x00, 0x00, 0x00, 0x00, 0x00, 0xC0, 0x10, 0x0000, 0x0100⟩)
    seen s = some (⟨0x00, 0x00, 0x00, 0x00, 0x00, 0x00, 0xC0, 0x10, 0x0000, 0x0102⟩, 12) ∧
    byteAfter s 0xC010 = some 0x5A := by
  decide

theorem test_ld_a_bc_1 :
    let s : State := { t0At [0x0A] ⟨0x00, 0x00, 0xC1, 0x23, 0x00, 0x00, 0x00, 0x00, 0x0000, 0x0100⟩ with wram := [(291, 0x42)] }
    seen s = some (⟨0x42, 0x00, 0xC1, 0x23, 0x00, 0x00, 0x00, 0x00, 0x0000, 0x0101⟩, 8) := by
  decide

theorem test_ld_de_a_1 :
    let s : State := (t0At [0x12] ⟨0x99, 0x00, 0x00, 0x00, 0xD0, 0x00, 0x00, 0x00, 0x0000, 0x0100⟩)
    seen s = some (⟨0x99, 0x00, 0x00, 0x00, 0xD0, 0x00, 0x00, 0x00, 0x0000, 0x0101⟩, 8) ∧
    byteAfter s 0xD000 = some 0x99 := by
  decide

theorem test_ld_a_nn_1 :
    let s : State := { t0At [0xFA, 0xFF, 0xC0] ⟨0x00, 0x00, 0x00, 0x00, 0x00, 0x00, 0x00, 0x00, 0x0000, 0x0100⟩ with wram := [(255, 0x12)] }
    seen s = some (⟨0x12, 0x00, 0x00, 0x00, 0x00, 0x00, 0x00, 0x00, 0x0000, 0x0103⟩, 16) := by
  decide

theorem test_ld_nn_a_1 :
    let s : State := (t0At [0xEA, 0x00, 0xC1] ⟨0x34, 0x00, 0x00, 0x00, 0x00, 0x00, 0x00, 0x00, 0x0000, 0x0100⟩)
    seen s = some (⟨0x34, 0x00, 0x00, 0x00, 0x00, 0x00, 0x00, 0x00, 0x0000, 0x0103⟩, 16) ∧
    byteAfter s 0xC100 = some 0x34 := by
  decide

theorem test_ldh_n_a_1 :
    let s : State := (t0At [0xE0, 0x80] ⟨0x55, 0x00, 0x00, 0x00, 0x00, 0x00, 0x00, 0x00, 0x0000, 0x0100⟩)
    seen s = some (⟨0x55, 0x00, 0x00, 0x00, 0x00, 0x00, 0x00, 0x00, 0x0000, 0x0102⟩, 12) ∧
    byteAfter s 0xFF80 = some 0x55 := by
  decide

theorem test_ldh_a_n_1 :
    let s : State := { t0At [0xF0, 0x80] ⟨0x00, 0x00, 0x00, 0x00, 0x00, 0x00, 0x00, 0x00, 0x0000, 0x0100⟩ with hram := [(0, 0x66)] }
    seen s = some (⟨0x66, 0x00, 0x00, 0x00, 0x00, 0x00, 0x00, 0x00, 0x0000, 0x0102⟩, 12) := by
  decide

theorem test_ldh_c_a_1 :
    let s : State := (t0At [0xE2] ⟨0x21, 0x00, 0x00, 0x81, 0x00, 0x00, 0x00, 0x00, 0x0000, 0x0100⟩)
    seen s = some (⟨0x21, 0x00, 0x00, 0x81, 0x00, 0x00, 0x00, 0x00, 0x0000, 0x0101⟩, 8) ∧
    byteAfter s 0xFF81 = some 0x21 := by
  decide

theorem test_ldh_a_c_1 :
    let s : State := { t0At [0xF2] ⟨0x00, 0x00, 0x00, 0xFF, 0x00, 0x00, 0x00, 0x00, 0x0000, 0x0100⟩ with ieReg := 0x1F }
    seen s = some (⟨0x1F, 0x00, 0x00, 0xFF, 0x00, 0x00, 0x00, 0x00, 0x0000, 0x0101⟩, 8) := by
  decide

theorem test_ld_hli_a_1 :
    let s : State := (t0At [0x22] ⟨0x01, 0x00, 0x00, 0x00, 0x00, 0x00, 0xDF, 0xFF, 0x0000, 0x0100⟩)
    seen s = some (⟨0x01, 0x00, 0x00, 0x00, 0x00, 0x00, 0xE0, 0x00, 0x0000, 0x0101⟩, 8) ∧
    byteAfter s 0xDFFF = some 0x01 := by
  decide

theorem test_ld_a_hli_1 :
    let s : State := { t0At [0x2A] ⟨0x00, 0x00, 0x00, 0x00, 0x00, 0x00, 0xFF, 0xFF, 0x0000, 0x0100⟩ with ieReg := 0x15 }
    seen s = some (⟨0x15, 0x00, 0x00, 0x00, 0x00, 0x00, 0x00, 0x00, 0x0000, 0x0101⟩, 8) := by
  decide

theorem test_ld_hld_a_1 :
    let s : State := (t0At [0x32] ⟨0x07, 0x00, 0x00, 0x00, 0x00, 0x00, 0xC0, 0x00, 0x0000, 0x0100⟩)
    seen s = some (⟨0x07, 0x00, 0x00, 0x00, 0x00, 0x00, 0xBF, 0xFF, 0x0000, 0x0101⟩, 8) ∧
    byteAfter s 0xC000 = some 0x07 := by
  decide

theorem test_ld_a_hld_1 :
    let s : State := { t0At [0x3A] ⟨0x00, 0x00, 0x00, 0x00, 0x00, 0x00, 0xC0, 0x00, 0x0000, 0x0100⟩ with wram := [(0, 0x09)] }
    seen s = some (⟨0x09, 0x00, 0x00, 0x00, 0x00, 0x00, 0xBF, 0xFF, 0x0000, 0x0101⟩, 8) := by
  decide

theorem test_ld_rr_nn_1 :
    let s : State := (t0At [0x01, 0x34, 0x12] ⟨0x00, 0x00, 0x00, 0x00, 0x00, 0x00, 0x00, 0x00, 0x0000, 0x0100⟩)
    seen s = some (⟨0x00, 0x00, 0x12, 0x34, 0x00, 0x00, 0x00, 0x00, 0x0000, 0x0103⟩, 12) := by
  decide

theorem test_ld_rr_nn_2 :
    let s : State := (t0At [0x31, 0xFE, 0xFF] ⟨0x00, 0x00, 0x00, 0x00, 0x00, 0x00, 0x00, 0x00, 0x0000, 0x0100⟩)
    seen s = some (⟨0x00, 0x00, 0x00, 0x00, 0x00, 0x00, 0x00, 0x00, 0xFFFE, 0x0103⟩, 12) := by
  decide

theorem test_ld_nn_sp_1 :
    let s : State := (t0At [0x08, 0x00, 0xC0] ⟨0x00, 0x00, 0x00, 0x00, 0x00, 0x00, 0x00, 0x00, 0xBEEF, 0x0100⟩)
    seen s = some (⟨0x00, 0x00, 0x00, 0x00, 0x00, 0x00, 0x00, 0x00, 0xBEEF, 0x0103⟩, 20) ∧
    byteAfter s 0xC000 = some 0xEF ∧
    byteAfter s 0xC001 = some 0xBE := by
  decide

theorem test_ld_sp_hl_1 :
    let s : State := (t0At [0xF9] ⟨0x00, 0x00, 0x00, 0x00, 0x00, 0x00, 0xD1, 0x23, 0x0000, 0x0100⟩)
    seen s = some (⟨0x00, 0x00, 0x00, 0x00, 0x00, 0x00, 0xD1, 0x23, 0xD123, 0x0101⟩, 8) := by
  decide

theorem test_ld_hl_sp_e_1 :
    let s : State := (t0At [0xF8, 0x08] ⟨0x00, 0xF0, 0x00, 0x00, 0x00, 0x00, 0x00, 0x00, 0xFFF8, 0x0100⟩)
    seen s = some (⟨0x00, 0x30, 0x00, 0x00, 0x00, 0x00, 0x00, 0x00, 0xFFF8, 0x0102⟩, 12) := by
  decide

theorem test_ld_hl_sp_e_2 :
    let s : State := (t0At [0xF8, 0xFF] ⟨0x00, 0x00, 0x00, 0x00, 0x00, 0x00, 0x00, 0x00, 0x0000, 0x0100⟩)
    seen s = some (⟨0x00, 0x00, 0x00, 0x00, 0x00, 0x00, 0xFF, 0xFF, 0x0000, 0x0102⟩, 12) := by
  decide

theorem test_push_qq_1 :
    let s : State := (t0At [0xC5] ⟨0x00, 0x00, 0x12, 0x3F, 0x00, 0x00, 0x00, 0x00, 0xDFFE, 0x0100⟩)
    seen s = some (⟨0x00, 0x00, 0x12, 0x3F, 0x00, 0x00, 0x00, 0x00, 0xDFFC, 0x0101⟩, 16) ∧
    byteAfter s 0xDFFC = some 0x3F ∧
    byteAfter s 0xDFFD = some 0x12 := by
  decide

theorem test_push_qq_2 :
    let s : State := (t0At [0xF5] ⟨0xAB, 0x50, 0x00, 0x00, 0x00, 0x00, 0x00, 0x00, 0xDFFE, 0x0100⟩)
    seen s = some (⟨0xAB, 0x50, 0x00, 0x00, 0x00, 0x00, 0x00, 0x00, 0xDFFC, 0x0101⟩, 16) ∧
    byteAfter s 0xDFFC = some 0x50 ∧
    byteAfter s 0xDFFD = some 0xAB := by
  decide

theorem test_pop_qq_1 :
    let s : State := { t0At [0xD1] ⟨0x00, 0x00, 0x00, 0x00, 0x00, 0x00, 0x00, 0x00, 0xC000, 0x0100⟩ with wram := [(0, 0xCD), (1, 0xAB)] }
    seen s = some (⟨0x00, 0x00, 0x00, 0x00, 0xAB, 0xCD, 0x00, 0x00, 0xC002, 0x0101⟩, 12) := by
  decide

theorem test_add_a_r_1 :
    let s : State := (t0At [0x80] ⟨0x3A, 0x00, 0xC6, 0x00, 0x00, 0x00, 0x00, 0x00, 0x0000, 0x0100⟩)
    seen s = some (⟨0x00, 0xB0, 0xC6, 0x00, 0x00, 0x00, 0x00, 0x00, 0x0000, 0x0101⟩, 4) := by
  decide

theorem test_add_a_hl_1 :
    let s : State := { t0At [0x86] ⟨0x3C, 0x00, 0x00, 0x00, 0x00, 0x00, 0xC0, 0x00, 0x0000, 0x0100⟩ with wram := [(0, 0x12)] }
    seen s = some (⟨0x4E, 0x00, 0x00, 0x00, 0x00, 0x00, 0xC0, 0x00, 0x0000, 0x0101⟩, 8) := by
  decide

theorem test_adc_a_n_1 :
    let s : State := (t0At [0xCE, 0x00] ⟨0x0F, 0x10, 0x00, 0x00, 0x00, 0x00, 0x00, 0x00, 0x0000, 0x0100⟩)
    seen s = some (⟨0x10, 0x20, 0x00, 0x00, 0x00, 0x00, 0x00, 0x00, 0x0000, 0x0102⟩, 8) := by
  decide

theorem test_adc_a_n_2 :
    let s : State := (t0At [0xCE, 0xFF] ⟨0xFF, 0x10, 0x00, 0x00, 0x00, 0x00, 0x00, 0x00, 0x0000, 0x0100⟩)
    seen s = some (⟨0xFF, 0x30, 0x00, 0x00, 0x00, 0x00, 0x00, 0x00, 0x0000, 0x0102⟩, 8) := by
  decide

theorem test_adc_a_r_1 :
    let s : State := (t0At [0x8B] ⟨0xE1, 0x10, 0x00, 0x00, 0x00, 0x0F, 0x00, 0x00, 0x0000, 0x0100⟩)
    seen s = some (⟨0xF1, 0x20, 0x00, 0x00, 0x00, 0x0F, 0x00, 0x00, 0x0000, 0x0101⟩, 4) := by
  decide

theorem test_sub_r_1 :
    let s : State := (t0At [0x97] ⟨0x3E, 0x00, 0x00, 0x00, 0x00, 0x00, 0x00, 0x00, 0x0000, 0x0100⟩)
    seen s = some (⟨0x00, 0xC0, 0x00, 0x00, 0x00, 0x00, 0x00, 0x00, 0x0000, 0x0101⟩, 4) := by
  decide

theorem test_sub_n_1 :
    let s : State := (t0At [0xD6, 0x40] ⟨0x3E, 0x00, 0x00, 0x00, 0x00, 0x00, 0x00, 0x00, 0x0000, 0x0100⟩)
    seen s = some (⟨0xFE, 0x50, 0x00, 0x00, 0x00, 0x00, 0x00, 0x00, 0x0000, 0x0102⟩, 8) := by
  decide

theorem test_sbc_a_n_1 :
    let s : State := (t0At [0xDE, 0x00] ⟨0x00, 0x10, 0x00, 0x00, 0x00, 0x00, 0x00, 0x00, 0x0000, 0x0100⟩)
    seen s = some (⟨0xFF, 0x70, 0x00, 0x00, 0x00, 0x00, 0x00, 0x00, 0x0000, 0x0102⟩, 8) := by
  decide

theorem test_sbc_a_n_2 :
    let s : State := (t0At [0xDE, 0x0F] ⟨0x10, 0x10, 0x00, 0x00, 0x00, 0x00, 0x00, 0x00, 0x0000, 0x0100⟩)
    seen s = some (⟨0x00, 0xE0, 0x00, 0x00, 0x00, 0x00, 0x00, 0x00, 0x0000, 0x0102⟩, 8) := by
  decide

theorem test_sbc_a_r_1 :
    let s : State := (t0At [0x9C] ⟨0x3B, 0x10, 0x00, 0x00, 0x00, 0x00, 0x2A, 0x00, 0x0000, 0x0100⟩)
    seen s = some (⟨0x10, 0x40, 0x00, 0x00, 0x00, 0x00, 0x2A, 0x00, 0x0000, 0x0101⟩, 4) := by
  decide

theorem test_and_n_1 :
    let s : State := (t0At [0xE6, 0x3F] ⟨0x5A, 0x10, 0x00, 0x00, 0x00, 0x00, 0x00, 0x00, 0x0000, 0x0100⟩)
    seen s = some (⟨0x1A, 0x20, 0x00, 0x00, 0x00, 0x00, 0x00, 0x00, 0x0000, 0x0102⟩, 8) := by
  decide

theorem test_and_n_2 :
    let s : State := (t0At [0xE6, 0xA5] ⟨0x5A, 0x00, 0x00, 0x00, 0x00, 0x00, 0x00, 0x00, 0x0000, 0x0100⟩)
    seen s = some (⟨0x00, 0xA0, 0x00, 0x00, 0x00, 0x00, 0x00, 0x00, 0x0000, 0x0102⟩, 8) := by
  decide

theorem test_xor_r_1 :
    let s : State := (t0At [0xAF] ⟨0x77, 0xF0, 0x00, 0x00, 0x00, 0x00, 0x00, 0x00, 0x0000, 0x0100⟩)
    seen s = some (⟨0x00, 0x80, 0x00, 0x00, 0x00, 0x00, 0x00, 0x00, 0x0000, 0x0101⟩, 4) := by
  decide

theorem test_xor_n_1 :
    let s : State := (t0At [0xEE, 0x0F] ⟨0xFF, 0x00, 0x00, 0x00, 0x00, 0x00, 0x00, 0x00, 0x0000, 0x0100⟩)
    seen s = some (⟨0xF0, 0x00, 0x00, 0x00, 0x00, 0x00, 0x00, 0x00, 0x0000, 0x0102⟩, 8) := by
  decide

theorem test_or_n_1 :
    let s : State := (t0At [0xF6, 0x00] ⟨0x00, 0x70, 0x00, 0x00, 0x00, 0x00, 0x00, 0x00, 0x0000, 0x0100⟩)
    seen s = some (⟨0x00, 0x80, 0x00, 0x00, 0x00, 0x00, 0x00, 0x00, 0x0000, 0x0102⟩, 8) := by
  decide

theorem test_or_r_1 :
    let s : State := (t0At [0xB1] ⟨0x5A, 0x00, 0x00, 0x0F, 0x00, 0x00, 0x00, 0x00, 0x0000, 0x0100⟩)
    seen s = some (⟨0x5F, 0x00, 0x00, 0x0F, 0x00, 0x00, 0x00, 0x00, 0x0000, 0x0101⟩, 4) := by
  decide

theorem test_cp_n_1 :
    let s : State := (t0At [0xFE, 0x3C] ⟨0x3C, 0x00, 0x00, 0x00, 0x00, 0x00, 0x00, 0x00, 0x0000, 0x0100⟩)
    seen s = some (⟨0x3C, 0xC0, 0x00, 0x00, 0x00, 0x00, 0x00, 0x00, 0x0000, 0x0102⟩, 8) := by
  decide

theorem test_cp_n_2 :
    let s : State := (t0At [0xFE, 0x40] ⟨0x3C, 0x00, 0x00, 0x00, 0x00, 0x00, 0x00, 0x00, 0x0000, 0x0100⟩)
    seen s = some (⟨0x3C, 0x50, 0x00, 0x00, 0x00, 0x00, 0x00, 0x00, 0x0000, 0x0102⟩, 8) := by
  decide

theorem test_inc_r_1 :
    let s : State := (t0At [0x3C] ⟨0xFF, 0x10, 0x00, 0x00, 0x00, 0x00, 0x00, 0x00, 0x0000, 0x0100⟩)
    seen s = some (⟨0x00, 0xB0, 0x00, 0x00, 0x00, 0x00, 0x00, 0x00, 0x0000, 0x0101⟩, 4) := by
  decide

theorem test_inc_r_2 :
    let s : State := (t0At [0x04] ⟨0x00, 0x00, 0x0F, 0x00, 0x00, 0x00, 0x00, 0x00, 0x0000, 0x0100⟩)
    seen s = some (⟨0x00, 0x20, 0x10, 0x00, 0x00, 0x00, 0x00, 0x00, 0x0000, 0x0101⟩, 4) := by
  decide

theorem test_dec_r_1 :
    let s : State := (t0At [0x05] ⟨0x00, 0x00, 0x10, 0x00, 0x00, 0x00, 0x00, 0x00, 0x0000, 0x0100⟩)
    seen s = some (⟨0x00, 0x60, 0x0F, 0x00, 0x00, 0x00, 0x00, 0x00, 0x0000, 0x0101⟩, 4) := by
  decide

theorem test_dec_r_2 :
    let s : State := (t0At [0x0D] ⟨0x00, 0x10, 0x00, 0x00, 0x00, 0x00, 0x00, 0x00, 0x0000, 0x0100⟩)
    seen s = some (⟨0x00, 0x70, 0x00, 0xFF, 0x00, 0x00, 0x00, 0x00, 0x0000, 0x0101⟩, 4) := by
  decide

theorem test_inc_hl_mem_1 :
    let s : State := { t0At [0x34] ⟨0x00, 0x00, 0x00, 0x00, 0x00, 0x00, 0xC0, 0x00, 0x0000, 0x0100⟩ with wram := [(0, 0xFF)] }
    seen s = some (⟨0x00, 0xA0, 0x00, 0x00, 0x00, 0x00, 0xC0, 0x00, 0x0000, 0x0101⟩, 12) ∧
    byteAfter s 0xC000 = some 0x00 := by
  decide

theorem test_dec_hl_mem_1 :
    let s : State := { t0At [0x35] ⟨0x00, 0x00, 0x00, 0x00, 0x00, 0x00, 0xC0, 0x00, 0x0000, 0x0100⟩ with wram := [(0, 0x01)] }
    seen s = some (⟨0x00, 0xC0, 0x00, 0x00, 0x00, 0x00, 0xC0, 0x00, 0x0000, 0x0101⟩, 12) ∧
    byteAfter s 0xC000 = some 0x00 := by
  decide

theorem test_daa_1 :
    let s : State := (t0At [0x27] ⟨0x9A, 0x00, 0x00, 0x00, 0x00, 0x00, 0x00, 0x00, 0x0000, 0x0100⟩)
    seen s = some (⟨0x00, 0x90, 0x00, 0x00, 0x00, 0x00, 0x00, 0x00, 0x0000, 0x0101⟩, 4) := by
  decide

theorem test_daa_2 :
    let s : State := (t0At [0x27] ⟨0x0F, 0x60, 0x00, 0x00, 0x00, 0x00, 0x00, 0x00, 0x0000, 0x0100⟩)
    seen s = some (⟨0x09, 0x40, 0x00, 0x00, 0x00, 0x00, 0x00, 0x00, 0x0000, 0x0101⟩, 4) := by
  decide

theorem test_cpl_1 :
    let s : State := (t0At [0x2F] ⟨0xA5, 0x90, 0x00, 0x00, 0x00, 0x00, 0x00, 0x00, 0x0000, 0x0100⟩)
    seen s = some (⟨0x5A, 0xF0, 0x00, 0x00, 0x00, 0x00, 0x00, 0x00, 0x0000, 0x0101⟩, 4) := by
  decide

theorem test_scf_1 :
    let s : State := (t0At [0x37] ⟨0x00, 0xE0, 0x00, 0x00, 0x00, 0x00, 0x00, 0x00, 0x0000, 0x0100⟩)
    seen s = some (⟨0x00, 0x90, 0x00, 0x00, 0x00, 0x00, 0x00, 0x00, 0x0000, 0x0101⟩, 4) := by
  decide

theorem test_ccf_1 :
    let s : State := (t0At [0x3F] ⟨0x00, 0x90, 0x00, 0x00, 0x00, 0x00, 0x00, 0x00, 0x0000, 0x0100⟩)
    seen s = some (⟨0x00, 0x80, 0x00, 0x00, 0x00, 0x00, 0x00, 0x00, 0x0000, 0x0101⟩, 4) := by
  decide

theorem test_ccf_2 :
    let s : State := (t0At [0x3F] ⟨0x00, 0x60, 0x00, 0x00, 0x00, 0x00, 0x00, 0x00, 0x0000, 0x0100⟩)
    seen s = some (⟨0x00, 0x10, 0x00, 0x00, 0x00, 0x00, 0x00, 0x00, 0x0000, 0x0101⟩, 4) := by
  decide

theorem test_add_hl_rr_1 :
    let s : State := (t0At [0x09] ⟨0x00, 0x80, 0x00, 0x01, 0x00, 0x00, 0x0F, 0xFF, 0x0000, 0x0100⟩)
    seen s = some (⟨0x00, 0xA0, 0x00, 0x01, 0x00, 0x00, 0x10, 0x00, 0x0000, 0x0101⟩, 8) := by
  decide

theorem test_add_hl_rr_2 :
    let s : State := (t0At [0x19] ⟨0x00, 0x40, 0x00, 0x00, 0x00, 0x01, 0xFF, 0xFF, 0x0000, 0x0100⟩)
    seen s = some (⟨0x00, 0x30, 0x00, 0x00, 0x00, 0x01, 0x00, 0x00, 0x0000, 0x0101⟩, 8) := by
  decide

theorem test_inc_rr_1 :
    let s : State := (t0At [0x03] ⟨0x00, 0xF0, 0xFF, 0xFF, 0x00, 0x00, 0x00, 0x00, 0x0000, 0x0100⟩)
    seen s = some (⟨0x00, 0xF0, 0x00, 0x00, 0x00, 0x00, 0x00, 0x00, 0x0000, 0x0101⟩, 8) := by
  decide

theorem test_inc_rr_2 :
    let s : State := (t0At [0x23] ⟨0x00, 0x00, 0x00, 0x00, 0x00, 0x00, 0x00, 0xFF, 0x0000, 0x0100⟩)
    seen s = some (⟨0x00, 0x00, 0x00, 0x00, 0x00, 0x00, 0x01, 0x00, 0x0000, 0x0101⟩, 8) := by
  decide

theorem test_dec_rr_1 :
    let s : State := (t0At [0x1B] ⟨0x00, 0x00, 0x00, 0x00, 0x01, 0x00, 0x00, 0x00, 0x0000, 0x0100⟩)
    seen s = some (⟨0x00, 0x00, 0x00, 0x00, 0x00, 0xFF, 0x00, 0x00, 0x0000, 0x0101⟩, 8) := by
  decide

theorem test_dec_rr_2 :
    let s : State := (t0At [0x3B] ⟨0x00, 0x00, 0x00, 0x00, 0x00, 0x00, 0x00, 0x00, 0x0000, 0x0100⟩)
    seen s = some (⟨0x00, 0x00, 0x00, 0x00, 0x00, 0x00, 0x00, 0x00, 0xFFFF, 0x0101⟩, 8) := by
  decide

theorem test_add_sp_e_1 :
    let s : State := (t0At [0xE8, 0x01] ⟨0x00, 0xC0, 0x00, 0x00, 0x00, 0x00, 0x00, 0x00, 0xFFFF, 0x0100⟩)
    seen s = some (⟨0x00, 0x30, 0x00, 0x00, 0x00, 0x00, 0x00, 0x00, 0x0000, 0x0102⟩, 16) := by
  decide

theorem test_add_sp_e_2 :
    let s : State := (t0At [0xE8, 0xFF] ⟨0x00, 0x00, 0x00, 0x00, 0x00, 0x00, 0x00, 0x00, 0x0001, 0x0100⟩)
    seen s = some (⟨0x00, 0x30, 0x00, 0x00, 0x00, 0x00, 0x00, 0x00, 0x0000, 0x0102⟩, 16) := by
  decide

theorem test_rlca_1 :
    let s : State := (t0At [0x07] ⟨0x85, 0xE0, 0x00, 0x00, 0x00, 0x00, 0x00, 0x00, 0x0000, 0x0100⟩)
    seen s = some (⟨0x0B, 0x10, 0x00, 0x00, 0x00, 0x00, 0x00, 0x00, 0x0000, 0x0101⟩, 4) := by
  decide

theorem test_rlca_2 :
    let s : State := (t0At [0x07] ⟨0x00, 0xF0, 0x00, 0x00, 0x00, 0x00, 0x00, 0x00, 0x0000, 0x0100⟩)
    seen s = some (⟨0x00, 0x00, 0x00, 0x00, 0x00, 0x00, 0x00, 0x00, 0x0000, 0x0101⟩, 4) := by
  decide

theorem test_rrca_1 :
    let s : State := (t0At [0x0F] ⟨0x01, 0x00, 0x00, 0x00, 0x00, 0x00, 0x00, 0x00, 0x0000, 0x0100⟩)
    seen s = some (⟨0x80, 0x10, 0x00, 0x00, 0x00, 0x00, 0x00, 0x00, 0x0000, 0x0101⟩, 4) := by
  decide

theorem test_rla_1 :
    let s : State := (t0At [0x17] ⟨0x80, 0x10, 0x00, 0x00, 0x00, 0x00, 0x00, 0x00, 0x0000, 0x0100⟩)
    seen s = some (⟨0x01, 0x10, 0x00, 0x00, 0x00, 0x00, 0x00, 0x00, 0x0000, 0x0101⟩, 4) := by
  decide

theorem test_rla_2 :
    let s : State := (t0At [0x17] ⟨0x80, 0x00, 0x00, 0x00, 0x00, 0x00, 0x00, 0x00, 0x0000, 0x0100⟩)
    seen s = some (⟨0x00, 0x10, 0x00, 0x00, 0x00, 0x00, 0x00, 0x00, 0x0000, 0x0101⟩, 4) := by
  decide

theorem test_rra_1 :
    let s : State := (t0At [0x1F] ⟨0x01, 0x00, 0x00, 0x00, 0x00, 0x00, 0x00, 0x00, 0x0000, 0x0100⟩)
    seen s = some (⟨0x00, 0x10, 0x00, 0x00, 0x00, 0x00, 0x00, 0x00, 0x0000, 0x0101⟩, 4) := by
  decide

theorem test_rra_2 :
    let s : State := (t0At [0x1F] ⟨0x81, 0x10, 0x00, 0x00, 0x00, 0x00, 0x00, 0x00, 0x0000, 0x0100⟩)
    seen s = some (⟨0xC0, 0x10, 0x00, 0x00, 0x00, 0x00, 0x00, 0x00, 0x0000, 0x0101⟩, 4) := by
  decide

theorem test_rlc_r_1 :
    let s : State := (t0At [0xCB, 0x00] ⟨0x00, 0x00, 0x85, 0x00, 0x00, 0x00, 0x00, 0x00, 0x0000, 0x0100⟩)
    seen s = some (⟨0x00, 0x10, 0x0B, 0x00, 0x00, 0x00, 0x00, 0x00, 0x0000, 0x0102⟩, 8) := by
  decide

theorem test_rlc_hl_1 :
    let s : State := { t0At [0xCB, 0x06] ⟨0x00, 0x10, 0x00, 0x00, 0x00, 0x00, 0xC0, 0x00, 0x0000, 0x0100⟩ with wram := [] }
    seen s = some (⟨0x00, 0x80, 0x00, 0x00, 0x00, 0x00, 0xC0, 0x00, 0x0000, 0x0102⟩, 16) ∧
    byteAfter s 0xC000 = some 0x00 := by
  decide

theorem test_rrc_r_1 :
    let s : State := (t0At [0xCB, 0x09] ⟨0x00, 0x00, 0x00, 0x01, 0x00, 0x00, 0x00, 0x00, 0x0000, 0x0100⟩)
    seen s = some (⟨0x00, 0x10, 0x00, 0x80, 0x00, 0x00, 0x00, 0x00, 0x0000, 0x0102⟩, 8) := by
  decide

theorem test_rl_r_1 :
    let s : State := (t0At [0xCB, 0x11] ⟨0x00, 0x00, 0x00, 0x80, 0x00, 0x00, 0x00, 0x00, 0x0000, 0x0100⟩)
    seen s = some (⟨0x00, 0x90, 0x00, 0x00, 0x00, 0x00, 0x00, 0x00, 0x0000, 0x0102⟩, 8) := by
  decide

theorem test_rl_hl_1 :
    let s : State := { t0At [0xCB, 0x16] ⟨0x00, 0x10, 0x00, 0x00, 0x00, 0x00, 0xC0, 0x00, 0x0000, 0x0100⟩ with wram := [(0, 0x11)] }
    seen s = some (⟨0x00, 0x00, 0x00, 0x00, 0x00, 0x00, 0xC0, 0x00, 0x0000, 0x0102⟩, 16) ∧
    byteAfter s 0xC000 = some 0x23 := by
  decide

theorem test_rr_r_1 :
    let s : State := (t0At [0xCB, 0x1F] ⟨0x01, 0x00, 0x00, 0x00, 0x00, 0x00, 0x00, 0x00, 0x0000, 0x0100⟩)
    seen s = some (⟨0x00, 0x90, 0x00, 0x00, 0x00, 0x00, 0x00, 0x00, 0x0000, 0x0102⟩, 8) := by
  decide

theorem test_rr_hl_1 :
    let s : State := { t0At [0xCB, 0x1E] ⟨0x00, 0x10, 0x00, 0x00, 0x00, 0x00, 0xC0, 0x00, 0x0000, 0x0100⟩ with wram := [(0, 0x8A)] }
    seen s = some (⟨0x00, 0x00, 0x00, 0x00, 0x00, 0x00, 0xC0, 0x00, 0x0000, 0x0102⟩, 16) ∧
    byteAfter s 0xC000 = some 0xC5 := by
  decide

theorem test_sla_r_1 :
    let s : State := (t0At [0xCB, 0x22] ⟨0x00, 0x00, 0x00, 0x00, 0xFF, 0x00, 0x00, 0x00, 0x0000, 0x0100⟩)
    seen s = some (⟨0x00, 0x10, 0x00, 0x00, 0xFE, 0x00, 0x00, 0x00, 0x0000, 0x0102⟩, 8) := by
  decide

theorem test_sla_r_2 :
    let s : State := (t0At [0xCB, 0x22] ⟨0x00, 0x00, 0x00, 0x00, 0x80, 0x00, 0x00, 0x00, 0x0000, 0x0100⟩)
    seen s = some (⟨0x00, 0x90, 0x00, 0x00, 0x00, 0x00, 0x00, 0x00, 0x0000, 0x0102⟩, 8) := by
  decide

theorem test_sra_r_1 :
    let s : State := (t0At [0xCB, 0x2B] ⟨0x00, 0x00, 0x00, 0x00, 0x00, 0x81, 0x00, 0x00, 0x0000, 0x0100⟩)
    seen s = some (⟨0x00, 0x10, 0x00, 0x00, 0x00, 0xC0, 0x00, 0x00, 0x0000, 0x0102⟩, 8) := by
  decide

theorem test_sra_r_2 :
    let s : State := (t0At [0xCB, 0x2F] ⟨0x01, 0x00, 0x00, 0x00, 0x00, 0x00, 0x00, 0x00, 0x0000, 0x0100⟩)
    seen s = some (⟨0x00, 0x90, 0x00, 0x00, 0x00, 0x00, 0x00, 0x00, 0x0000, 0x0102⟩, 8) := by
  decide

theorem test_swap_r_1 :
    let s : State := (t0At [0xCB, 0x37] ⟨0xF0, 0x10, 0x00, 0x00, 0x00, 0x00, 0x00, 0x00, 0x0000, 0x0100⟩)
    seen s = some (⟨0x0F, 0x00, 0x00, 0x00, 0x00, 0x00, 0x00, 0x00, 0x0000, 0x0102⟩, 8) := by
  decide

theorem test_swap_r_2 :
    let s : State := (t0At [0xCB, 0x30] ⟨0x00, 0x00, 0x00, 0x00, 0x00, 0x00, 0x00, 0x00, 0x0000, 0x0100⟩)
    seen s = some (⟨0x00, 0x80, 0x00, 0x00, 0x00, 0x00, 0x00, 0x00, 0x0000, 0x0102⟩, 8) := by
  decide

theorem test_swap_hl_1 :
    let s : State := { t0At [0xCB, 0x36] ⟨0x00, 0x00, 0x00, 0x00, 0x00, 0x00, 0xC0, 0x00, 0x0000, 0x0100⟩ with wram := [(0, 0xA5)] }
    seen s = some (⟨0x00, 0x00, 0x00, 0x00, 0x00, 0x00, 0xC0, 0x00, 0x0000, 0x0102⟩, 16) ∧
    byteAfter s 0xC000 = some 0x5A := by
  decide

theorem test_srl_r_1 :
    let s : State := (t0At [0xCB, 0x3F] ⟨0x01, 0x00, 0x00, 0x00, 0x00, 0x00, 0x00, 0x00, 0x0000, 0x0100⟩)
    seen s = some (⟨0x00, 0x90, 0x00, 0x00, 0x00, 0x00, 0x00, 0x00, 0x0000, 0x0102⟩, 8) := by
  decide

theorem test_srl_r_2 :
    let s : State := (t0At [0xCB, 0x3C] ⟨0x00, 0x00, 0x00, 0x00, 0x00, 0x00, 0xFF, 0x00, 0x0000, 0x0100⟩)
    seen s = some (⟨0x00, 0x10, 0x00, 0x00, 0x00, 0x00, 0x7F, 0x00, 0x0000, 0x0102⟩, 8) := by
  decide

theorem test_bit_r_1 :
    let s : State := (t0At [0xCB, 0x7C] ⟨0x00, 0x10, 0x00, 0x00, 0x00, 0x00, 0x80, 0x00, 0x0000, 0x0100⟩)
    seen s = some (⟨0x00, 0x30, 0x00, 0x00, 0x00, 0x00, 0x80, 0x00, 0x0000, 0x0102⟩, 8) := by
  decide

theorem test_bit_r_2 :
    let s : State := (t0At [0xCB, 0x7C] ⟨0x00, 0x50, 0x00, 0x00, 0x00, 0x00, 0x7F, 0x00, 0x0000, 0x0100⟩)
    seen s = some (⟨0x00, 0xB0, 0x00, 0x00, 0x00, 0x00, 0x7F, 0x00, 0x0000, 0x0102⟩, 8) := by
  decide

theorem test_bit_hl_1 :
    let s : State := { t0At [0xCB, 0x46] ⟨0x00, 0x00, 0x00, 0x00, 0x00, 0x00, 0xC0, 0x00, 0x0000, 0x0100⟩ with wram := [(0, 0xFE)] }
    seen s = some (⟨0x00, 0xA0, 0x00, 0x00, 0x00, 0x00, 0xC0, 0x00, 0x0000, 0x0102⟩, 12) := by
  decide

theorem test_res_hl_1 :
    let s : State := { t0At [0xCB, 0x86] ⟨0x00, 0xF0, 0x00, 0x00, 0x00, 0x00, 0xC0, 0x00, 0x0000, 0x0100⟩ with wram := [(0, 0xFF)] }
    seen s = some (⟨0x00, 0xF0, 0x00, 0x00, 0x00, 0x00, 0xC0, 0x00, 0x0000, 0x0102⟩, 16) ∧
    byteAfter s 0xC000 = some 0xFE := by
  decide

theorem test_res_r_1 :
    let s : State := (t0At [0xCB, 0xBF] ⟨0x80, 0x00, 0x00, 0x00, 0x00, 0x00, 0x00, 0x00, 0x0000, 0x0100⟩)
    seen s = some (⟨0x00, 0x00, 0x00, 0x00, 0x00, 0x00, 0x00, 0x00, 0x0000, 0x0102⟩, 8) := by
  decide

theorem test_set_r_1 :
    let s : State := (t0At [0xCB, 0xFF] ⟨0x00, 0x80, 0x00, 0x00, 0x00, 0x00, 0x00, 0x00, 0x0000, 0x0100⟩)
    seen s = some (⟨0x80, 0x80, 0x00, 0x00, 0x00, 0x00, 0x00, 0x00, 0x0000, 0x0102⟩, 8) := by
  decide

theorem test_set_hl_1 :
    let s : State := { t0At [0xCB, 0xDE] ⟨0x00, 0x00, 0x00, 0x00, 0x00, 0x00, 0xC0, 0x00, 0x0000, 0x0100⟩ with wram := [] }
    seen s = some (⟨0x00, 0x00, 0x00, 0x00, 0x00, 0x00, 0xC0, 0x00, 0x0000, 0x0102⟩, 16) ∧
    byteAfter s 0xC000 = some 0x08 := by
  decide

theorem test_jp_nn_1 :
    let s : State := (t0At [0xC3, 0x50, 0x01] ⟨0x00, 0x00, 0x00, 0x00, 0x00, 0x00, 0x00, 0x00, 0x0000, 0x0100⟩)
    seen s = some (⟨0x00, 0x00, 0x00, 0x00, 0x00, 0x00, 0x00, 0x00, 0x0000, 0x0150⟩, 16) := by
  decide

theorem test_jp_cc_nn_1 :
    let s : State := (t0At [0xCA, 0x50, 0x01] ⟨0x00, 0x80, 0x00, 0x00, 0x00, 0x00, 0x00, 0x00, 0x0000, 0x0100⟩)
    seen s = some (⟨0x00, 0x80, 0x00, 0x00, 0x00, 0x00, 0x00, 0x00, 0x0000, 0x0150⟩, 16) := by
  decide

theorem test_jp_cc_nn_2 :
    let s : State := (t0At [0xCA, 0x50, 0x01] ⟨0x00, 0x00, 0x00, 0x00, 0x00, 0x00, 0x00, 0x00, 0x0000, 0x0100⟩)
    seen s = some (⟨0x00, 0x00, 0x00, 0x00, 0x00, 0x00, 0x00, 0x00, 0x0000, 0x0103⟩, 12) := by
  decide

theorem test_jp_hl_1 :
    let s : State := (t0At [0xE9] ⟨0x00, 0x00, 0x00, 0x00, 0x00, 0x00, 0xC1, 0x23, 0x0000, 0x0100⟩)
    seen s = some (⟨0x00, 0x00, 0x00, 0x00, 0x00, 0x00, 0xC1, 0x23, 0x0000, 0xC123⟩, 4) := by
  decide

theorem test_jr_e_1 :
    let s : State := (t0At [0x18, 0xFE] ⟨0x00, 0x00, 0x00, 0x00, 0x00, 0x00, 0x00, 0x00, 0x0000, 0x0100⟩)
    seen s = some (⟨0x00, 0x00, 0x00, 0x00, 0x00, 0x00, 0x00, 0x00, 0x0000, 0x0100⟩, 12) := by
  decide

theorem test_jr_e_2 :
    let s : State := (t0At [0x18, 0x80] ⟨0x00, 0x00, 0x00, 0x00, 0x00, 0x00, 0x00, 0x00, 0x0000, 0x0100⟩)
    seen s = some (⟨0x00, 0x00, 0x00, 0x00, 0x00, 0x00, 0x00, 0x00, 0x0000, 0x0082⟩, 12) := by
  decide

theorem test_jr_cc_e_1 :
    let s : State := (t0At [0x20, 0xFC] ⟨0x00, 0x00, 0x00, 0x00, 0x00, 0x00, 0x00, 0x00, 0x0000, 0x0100⟩)
    seen s = some (⟨0x00, 0x00, 0x00, 0x00, 0x00, 0x00, 0x00, 0x00, 0x0000, 0x00FE⟩, 12) := by
  decide

theorem test_jr_cc_e_2 :
    let s : State := (t0At [0x20, 0xFC] ⟨0x00, 0x80, 0x00, 0x00, 0x00, 0x00, 0x00, 0x00, 0x0000, 0x0100⟩)
    seen s = some (⟨0x00, 0x80, 0x00, 0x00, 0x00, 0x00, 0x00, 0x00, 0x0000, 0x0102⟩, 8) := by
  decide

theorem test_call_nn_1 :
    let s : State := (t0At [0xCD, 0x00, 0x02] ⟨0x00, 0x00, 0x00, 0x00, 0x00, 0x00, 0x00, 0x00, 0xDFFE, 0x0100⟩)
    seen s = some (⟨0x00, 0x00, 0x00, 0x00, 0x00, 0x00, 0x00, 0x00, 0xDFFC, 0x0200⟩, 24) ∧
    byteAfter s 0xDFFC = some 0x03 ∧
    byteAfter s 0xDFFD = some 0x01 := by
  decide

theorem test_call_cc_nn_1 :
    let s : State := (t0At [0xC4, 0x00, 0x02] ⟨0x00, 0x80, 0x00, 0x00, 0x00, 0x00, 0x00, 0x00, 0xDFFE, 0x0100⟩)
    seen s = some (⟨0x00, 0x80, 0x00, 0x00, 0x00, 0x00, 0x00, 0x00, 0xDFFE, 0x0103⟩, 12) := by
  decide

theorem test_call_cc_nn_2 :
    let s : State := (t0At [0xDC, 0x34, 0x12] ⟨0x00, 0x10, 0x00, 0x00, 0x00, 0x00, 0x00, 0x00, 0xDFFE, 0x0100⟩)
    seen s = some (⟨0x00, 0x10, 0x00, 0x00, 0x00, 0x00, 0x00, 0x00, 0xDFFC, 0x1234⟩, 24) ∧
    byteAfter s 0xDFFC = some 0x03 ∧
    byteAfter s 0xDFFD = some 0x01 := by
  decide

theorem test_ret_1 :
    let s : State := { t0At [0xC9] ⟨0x00, 0x00, 0x00, 0x00, 0x00, 0x00, 0x00, 0x00, 0xC000, 0x0100⟩ with wram := [(0, 0x34), (1, 0x12)] }
    seen s = some (⟨0x00, 0x00, 0x00, 0x00, 0x00, 0x00, 0x00, 0x00, 0xC002, 0x1234⟩, 16) := by
  decide

theorem test_ret_cc_1 :
    let s : State := { t0At [0xD8] ⟨0x00, 0x10, 0x00, 0x00, 0x00, 0x00, 0x00, 0x00, 0xC000, 0x0100⟩ with wram := [(0, 0x34), (1, 0x12)] }
    seen s = some (⟨0x00, 0x10, 0x00, 0x00, 0x00, 0x00, 0x00, 0x00, 0xC002, 0x1234⟩, 20) := by
  decide

theorem test_ret_cc_2 :
    let s : State := { t0At [0xD8] ⟨0x00, 0x00, 0x00, 0x00, 0x00, 0x00, 0x00, 0x00, 0xC000, 0x0100⟩ with wram := [(0, 0x34), (1, 0x12)] }
    seen s = some (⟨0x00, 0x00, 0x00, 0x00, 0x00, 0x00, 0x00, 0x00, 0xC000, 0x0101⟩, 8) := by
  decide

theorem test_reti_1 :
    let s : State := { t0At [0xD9] ⟨0x00, 0x00, 0x00, 0x00, 0x00, 0x00, 0x00, 0x00, 0xC000, 0x0100⟩ with wram := [(0, 0x34), (1, 0x12)], ime := false }
    seen s = some (⟨0x00, 0x00, 0x00, 0x00, 0x00, 0x00, 0x00, 0x00, 0xC002, 0x1234⟩, 16) ∧
    after s (fun t => t.ime) = some true := by
  decide

theorem test_rst_t_1 :
    let s : State := (t0At [0xEF] ⟨0x00, 0x00, 0x00, 0x00, 0x00, 0x00, 0x00, 0x00, 0xDFFE, 0x0100⟩)
    seen s = some (⟨0x00, 0x00, 0x00, 0x00, 0x00, 0x00, 0x00, 0x00, 0xDFFC, 0x0028⟩, 16) ∧
    byteAfter s 0xDFFC = some 0x01 ∧
    byteAfter s 0xDFFD = some 0x01 := by
  decide

theorem test_rst_t_2 :
    let s : State := (t0At [0xC7] ⟨0x00, 0x00, 0x00, 0x00, 0x00, 0x00, 0x00, 0x00, 0xDFFE, 0x0100⟩)
    seen s = some (⟨0x00, 0x00, 0x00, 0x00, 0x00, 0x00, 0x00, 0x00, 0xDFFC, 0x0000⟩, 16) ∧
    byteAfter s 0xDFFC = some 0x01 ∧
    byteAfter s 0xDFFD = some 0x01 := by
  decide

theorem test_nop_1 :
    let s : State := (t0At [0x00] ⟨0x00, 0xF0, 0x00, 0x00, 0x00, 0x00, 0x00, 0x00, 0x0000, 0x0100⟩)
    seen s = some (⟨0x00, 0xF0, 0x00, 0x00, 0x00, 0x00, 0x00, 0x00, 0x0000, 0x0101⟩, 4) := by
  decide

theorem test_halt_1 :
    let s : State := { t0At [0x76] ⟨0x00, 0x00, 0x00, 0x00, 0x00, 0x00, 0x00, 0x00, 0x0000, 0x0100⟩ with ifReg := 0x00 }
    seen s = some (⟨0x00, 0x00, 0x00, 0x00, 0x00, 0x00, 0x00, 0x00, 0x0000, 0x0101⟩, 4) ∧
    after s (fun t => t.halt) = some true := by
  decide

theorem test_stop_1 :
    let s : State := { t0At [0x10, 0x00] ⟨0x00, 0x00, 0x00, 0x00, 0x00, 0x00, 0x00, 0x00, 0x0000, 0x0100⟩ with ifReg := 0x00 }
    seen s = some (⟨0x00, 0x00, 0x00, 0x00, 0x00, 0x00, 0x00, 0x00, 0x0000, 0x0102⟩, 4) ∧
    after s (fun t => t.stop) = some true := by
  decide

theorem test_stop_2 :
    let s : State := { t0At [0x10, 0xFF] ⟨0x00, 0x00, 0x00, 0x00, 0x00, 0x00, 0x00, 0x00, 0x0000, 0x0100⟩ with ifReg := 0x00 }
    seen s = some (⟨0x00, 0x00, 0x00, 0x00, 0x00, 0x00, 0x00, 0x00, 0x0000, 0x0102⟩, 4) ∧
    after s (fun t => t.stop) = some true := by
  decide

theorem test_di_1 :
    let s : State := { t0At [0xF3] ⟨0x00, 0x00, 0x00, 0x00, 0x00, 0x00, 0x00, 0x00, 0x0000, 0x0100⟩ with ime := true }
    seen s = some (⟨0x00, 0x00, 0x00, 0x00, 0x00, 0x00, 0x00, 0x00, 0x0000, 0x0101⟩, 4) ∧
    after s (fun t => t.ime) = some false := by
  decide

theorem test_ei_1 :
    let s : State := { t0At [0xFB] ⟨0x00, 0x00, 0x00, 0x00, 0x00, 0x00, 0x00, 0x00, 0x0000, 0x0100⟩ with ime := false }
    seen s = some (⟨0x00, 0x00, 0x00, 0x00, 0x00, 0x00, 0x00, 0x00, 0x0000, 0x0101⟩, 4) ∧
    after s (fun t => t.ime) = some true := by
  decide

theorem test_ei_2 :
    let s : State := { t0At [0xFB] ⟨0x00, 0x00, 0x00, 0x00, 0x00, 0x00, 0x00, 0x00, 0x0000, 0x0100⟩ with ieReg := 0x01, ifReg := 0x02 }
    seen s = some (⟨0x00, 0x00, 0x00, 0x00, 0x00, 0x00, 0x00, 0x00, 0x0000, 0x0101⟩, 4) ∧
    after s (fun t => t.ime) = some true ∧
    after s (fun t => t.ifReg) = some 0x02 := by
  decide

theorem test_ld_bc_a_1 :
    let s : State := (t0At [0x02] ⟨0x42, 0x00, 0xC0, 0x10, 0x00, 0x00, 0x00, 0x00, 0x0000, 0x0100⟩)
    seen s = some (⟨0x42, 0x00, 0xC0, 0x10, 0x00, 0x00, 0x00, 0x00, 0x0000, 0x0101⟩, 8) ∧
    byteAfter s 0xC010 = some 0x42 := by
  decide

theorem test_ld_a_de_1 :
    let s : State := { t0At [0x1A] ⟨0x00, 0x00, 0x00, 0x00, 0xC0, 0x05, 0x00, 0x00, 0x0000, 0x0100⟩ with wram := [(5, 0x81)] }
    seen s = some (⟨0x81, 0x00, 0x00, 0x00, 0xC0, 0x05, 0x00, 0x00, 0x0000, 0x0101⟩, 8) := by
  decide

theorem test_add_a_n_1 :
    let s : State := (t0At [0xC6, 0x01] ⟨0xFF, 0x00, 0x00, 0x00, 0x00, 0x00, 0x00, 0x00, 0x0000, 0x0100⟩)
    seen s = some (⟨0x00, 0xB0, 0x00, 0x00, 0x00, 0x00, 0x00, 0x00, 0x0000, 0x0102⟩, 8) := by
  decide

theorem test_add_a_n_2 :
    let s : State := (t0At [0xC6, 0x27] ⟨0x15, 0x00, 0x00, 0x00, 0x00, 0x00, 0x00, 0x00, 0x0000, 0x0100⟩)
    seen s = some (⟨0x3C, 0x00, 0x00, 0x00, 0x00, 0x00, 0x00, 0x00, 0x0000, 0x0102⟩, 8) := by
  decide

theorem test_adc_a_hl_1 :
    let s : State := { t0At [0x8E] ⟨0xF0, 0x10, 0x00, 0x00, 0x00, 0x00, 0xC0, 0x00, 0x0000, 0x0100⟩ with wram := [(0, 0x0F)] }
    seen s = some (⟨0x00, 0xB0, 0x00, 0x00, 0x00, 0x00, 0xC0, 0x00, 0x0000, 0x0101⟩, 8) := by
  decide

theorem test_sub_hl_1 :
    let s : State := { t0At [0x96] ⟨0x10, 0x00, 0x00, 0x00, 0x00, 0x00, 0xC0, 0x00, 0x0000, 0x0100⟩ with wram := [(0, 0x20)] }
    seen s = some (⟨0xF0, 0x50, 0x00, 0x00, 0x00, 0x00, 0xC0, 0x00, 0x0000, 0x0101⟩, 8) := by
  decide

theorem test_sbc_a_hl_1 :
    let s : State := { t0At [0x9E] ⟨0x20, 0x10, 0x00, 0x00, 0x00, 0x00, 0xC0, 0x00, 0x0000, 0x0100⟩ with wram := [(0, 0x1F)] }
    seen s = some (⟨0x00, 0xE0, 0x00, 0x00, 0x00, 0x00, 0xC0, 0x00, 0x0000, 0x0101⟩, 8) := by
  decide

theorem test_and_hl_1 :
    let s : State := { t0At [0xA6] ⟨0xF3, 0xF0, 0x00, 0x00, 0x00, 0x00, 0xC0, 0x00, 0x0000, 0x0100⟩ with wram := [(0, 0x0F)] }
    seen s = some (⟨0x03, 0x20, 0x00, 0x00, 0x00, 0x00, 0xC0, 0x00, 0x0000, 0x0101⟩, 8) := by
  decide

theorem test_xor_hl_1 :
    let s : State := { t0At [0xAE] ⟨0xAA, 0x00, 0x00, 0x00, 0x00, 0x00, 0xC0, 0x00, 0x0000, 0x0100⟩ with wram := [(0, 0xAA)] }
    seen s = some (⟨0x00, 0x80, 0x00, 0x00, 0x00, 0x00, 0xC0, 0x00, 0x0000, 0x0101⟩, 8) := by
  decide

theorem test_or_hl_1 :
    let s : State := { t0At [0xB6] ⟨0x40, 0x10, 0x00, 0x00, 0x00, 0x00, 0xC0, 0x00, 0x0000, 0x0100⟩ with wram := [(0, 0x04)] }
    seen s = some (⟨0x44, 0x00, 0x00, 0x00, 0x00, 0x00, 0xC0, 0x00, 0x0000, 0x0101⟩, 8) := by
  decide

theorem test_cp_hl_1 :
    let s : State := { t0At [0xBE] ⟨0x41, 0x00, 0x00, 0x00, 0x00, 0x00, 0xC0, 0x00, 0x0000, 0x0100⟩ with wram := [(0, 0x42)] }
    seen s = some (⟨0x41, 0x70, 0x00, 0x00, 0x00, 0x00, 0xC0, 0x00, 0x0000, 0x0101⟩, 8) := by
  decide

theorem test_pop_af_1 :
    let s : State := { t0At [0xF1] ⟨0x00, 0x00, 0x00, 0x00, 0x00, 0x00, 0x00, 0x00, 0xC000, 0x0100⟩ with wram := [(0, 0x3F), (1, 0x12)] }
    seen s = some (⟨0x12, 0x30, 0x00, 0x00, 0x00, 0x00, 0x00, 0x00, 0xC002, 0x0101⟩, 12) := by
  decide

theorem test_and_r_1 :
    let s : State := (t0At [0xA1] ⟨0x0F, 0x00, 0x00, 0xF0, 0x00, 0x00, 0x00, 0x00, 0x0000, 0x0100⟩)
    seen s = some (⟨0x00, 0xA0, 0x00, 0xF0, 0x00, 0x00, 0x00, 0x00, 0x0000, 0x0101⟩, 4) := by
  decide

theorem test_cp_r_1 :
    let s : State := (t0At [0xB9] ⟨0x10, 0x00, 0x00, 0x01, 0x00, 0x00, 0x00, 0x00, 0x0000, 0x0100⟩)
    seen s = some (⟨0x10, 0x60, 0x00, 0x01, 0x00, 0x00, 0x00, 0x00, 0x0000, 0x0101⟩, 4) := by
  decide

theorem test_rrc_hl_1 :
    let s : State := { t0At [0xCB, 0x0E] ⟨0x00, 0x00, 0x00, 0x00, 0x00, 0x00, 0xC0, 0x00, 0x0000, 0x0100⟩ with wram := [(0, 0x01)] }
    seen s = some (⟨0x00, 0x10, 0x00, 0x00, 0x00, 0x00, 0xC0, 0x00, 0x0000, 0x0102⟩, 16) ∧
    byteAfter s 0xC000 = some 0x80 := by
  decide

theorem test_sla_hl_1 :
    let s : State := { t0At [0xCB, 0x26] ⟨0x00, 0x00, 0x00, 0x00, 0x00, 0x00, 0xC0, 0x00, 0x0000, 0x0100⟩ with wram := [(0, 0x81)] }
    seen s = some (⟨0x00, 0x10, 0x00, 0x00, 0x00, 0x00, 0xC0, 0x00, 0x0000, 0x0102⟩, 16) ∧
    byteAfter s 0xC000 = some 0x02 := by
  decide

theorem test_sra_hl_1 :
    let s : State := { t0At [0xCB, 0x2E] ⟨0x00, 0x00, 0x00, 0x00, 0x00, 0x00, 0xC0, 0x00, 0x0000, 0x0100⟩ with wram := [(0, 0x82)] }
    seen s = some (⟨0x00, 0x00, 0x00, 0x00, 0x00, 0x00, 0xC0, 0x00, 0x0000, 0x0102⟩, 16) ∧
    byteAfter s 0xC000 = some 0xC1 := by
  decide

theorem test_srl_hl_1 :
    let s : State := { t0At [0xCB, 0x3E] ⟨0x00, 0x00, 0x00, 0x00, 0x00, 0x00, 0xC0, 0x00, 0x0000, 0x0100⟩ with wram := [(0, 0x81)] }
    seen s = some (⟨0x00, 0x10, 0x00, 0x00, 0x00, 0x00, 0xC0, 0x00, 0x0000, 0x0102⟩, 16) ∧
    byteAfter s 0xC000 = some 0x40 := by
  decide


/-- The eleven unrecognized opcodes (rule R336). -/
theorem test_unrecognized_opcodes :
    ([0xD3, 0xDB, 0xDD, 0xE3, 0xE4, 0xEB, 0xEC, 0xED, 0xF4, 0xFC, 0xFD] : List Byte).all (fun op =>
      after (t0 [op]) (fun t => (t.run, t.regs)) =
        some (.crashed .unrecognizedInstruction, (t0 []).regs)) = true := by
  decide

/-! ## Fatal errors, interrupts, halt (95_test_vectors.md 3.1, 3.2) -/

/-- The run status after one step. -/
def runAfter (s : State) : Option RunStatus := after s fun t => t.run

theorem test_fatal_errors :
    runAfter (t0 [0xFA, 0x00, 0xE0]) = some (.crashed .accessViolation) ∧
    runAfter (t0 [0xF0, 0x50]) = some (.crashed .accessViolation) ∧
    runAfter (t0 [0xF0, 0x15]) = some (.crashed .outOfRange) ∧
    runAfter (t0 [0xFA, 0x00, 0xA0]) = some (.crashed .outOfRange) ∧
    runAfter (t0At [0xC5] ⟨0, 0, 0, 0, 0, 0, 0, 0, 0xE001, 0x0100⟩) = some (.crashed .accessViolation) ∧
    runAfter (t0At [] ⟨0, 0, 0, 0, 0, 0, 0, 0, 0, 0xE000⟩) = some (.crashed .accessViolation) := by
  decide

/-- T0 with SP = 0xDFFE and the given master-enable, IE and IF. -/
def irqState (bytes : List Byte) (ime : Bool) (ie fl : Byte) : State :=
  { t0At bytes ⟨0, 0, 0, 0, 0, 0, 0, 0, 0xDFFE, 0x0100⟩ with ime := ime, ieReg := ie, ifReg := fl }

/-- PC, IF, the master-enable and SP after one step. -/
def served (s : State) : Option (Word × Byte × Bool × Word) :=
  after s fun t => (t.regs.pc, t.ifReg, t.ime, t.regs.sp)

theorem test_interrupt_priority :
    served (irqState [0x00] true 0x05 0x05) = some (0x0040, 0x04, false, 0xDFFC) ∧
    byteAfter (irqState [0x00] true 0x05 0x05) 0xDFFC = some 0x01 ∧
    served (irqState [0x00] false 0x05 0x05) = some (0x0101, 0x05, false, 0xDFFE) ∧
    served (irqState [0x00] true 0x10 0x1F) = some (0x0060, 0x0F, false, 0xDFFC) := by
  decide

theorem test_interrupt_masks :
    served (irqState [0x00] true 0xFF 0xE0) = some (0x0101, 0xE0, true, 0xDFFE) ∧
    served (irqState [0x00] true 0x1E 0x1F) = some (0x0048, 0x1D, false, 0xDFFC) ∧
    served (irqState [0x00] true 0x08 0x08) = some (0x0058, 0x00, false, 0xDFFC) := by
  decide

theorem test_halt_wakes :
    after (irqState [0x76, 0x3C] false 0x00 0x04) (fun t => (t.halt, t.regs.pc)) = some (false, 0x0101) ∧
    after (irqState [0x76, 0x3C] false 0xFF 0xE0) (fun t => (t.halt, t.regs.pc)) = some (true, 0x0101) ∧
    served (irqState [0x76] true 0x01 0x01) = some (0x0040, 0x00, false, 0xDFFC) := by
  decide

/-- EI with EI_DELAY = 1 (2.7): the master-enable comes after the next instruction. -/
theorem test_ei_delay :
    let one := { Config.defaultParams with eiDelay := 1 }
    let s := { irqState [0xFB, 0x00] false 0x01 0x01 with params := one }
    served s = some (0x0101, 0x01, false, 0xDFFE) ∧
    (after s fun t => served t) = some (some (0x0040, 0x00, false, 0xDFFC)) := by
  decide

/-! ## Timer and joypad (3.3, 3.4) -/

theorem test_timer_overflow_reloads :
    let y := TimerIo.advance ⟨⟨0, 0xFE, 0x80, 0x05, 0, 12⟩, 0⟩ 24
    (y.timer.tima, y.timer.timaAcc, y.irq) = (0x80, 4, 0x04) := by
  decide

theorem test_timer_disabled_and_divider :
    let y := TimerIo.advance ⟨⟨0, 0, 0, 0x01, 0, 0⟩, 0⟩ 100
    let z := TimerIo.advance ⟨⟨0xFF, 0, 0, 0, 252, 0⟩, 0⟩ 4
    (y.timer.tima, y.timer.timaAcc, y.timer.divAcc) = (0, 0, 100) ∧ (z.timer.div, z.timer.divAcc, z.irq) = (0, 0, 0) := by
  decide

theorem test_timer_rate_change :
    (Timer.writeReg ⟨0, 0, 0, 0x05, 0, 10⟩ .tac 0x06).timaAcc = 0 ∧
    (Timer.writeReg ⟨0, 0, 0, 0x06, 0, 10⟩ .tac 0x02).timaAcc = 10 ∧
    (Timer.writeReg ⟨0x12, 0, 0, 0, 200, 0⟩ .div 0x55) = ⟨0, 0, 0, 0, 0, 0⟩ := by
  decide

/-- T0 with the button A pressed or not and one event on its way. -/
def joyState (held : Bool) (ev : ButtonEvent) : State :=
  let s := t0 []
  { s with joypad := ⟨0, Pressed.none.set .a held⟩, host := { s.host with events := [ev] }, stop := true }

theorem test_joypad_events :
    (joyState false ⟨.a, true⟩).pollJoypad.ifReg = 0x10 ∧ (joyState true ⟨.a, true⟩).pollJoypad.ifReg = 0 ∧
    (joyState true ⟨.a, false⟩).pollJoypad.ifReg = 0 ∧ (joyState true ⟨.a, false⟩).pollJoypad.stop = false := by
  decide

theorem test_p1_reads :
    (Joypad.readP1 ⟨0x10, Pressed.none.set .a true⟩, Joypad.readP1 ⟨0x20, Pressed.none.set .a true⟩) =
      (0x1E, 0x2F) ∧
    (Joypad.readP1 ⟨0x30, Pressed.none.set .a true⟩, Joypad.readP1 ⟨0x00, Pressed.none.set .a true⟩) =
      (0x3F, 0x0E) := by
  decide

/-! ## Display (3.5, S5, S6) -/

/-- A display just switched on, at line `ly`, with the given STAT and LYC. -/
def display (ly : Nat) (stat lyc : Byte) : PpuIo :=
  ⟨{ Ppu.fresh with lcdc := 0x80, mode := .oam, ly := ly, stat := stat, lyc := lyc }, 0, []⟩

theorem test_display_modes :
    ((display 0 0 0xFF).advance .table 76).ppu.mode = .oam ∧
    (let y := (display 0 0 0xFF).advance .table 100
     (y.ppu.mode, y.ppu.col, y.ppu.acc) = (.transfer, 20, 0)) ∧
    ((display 0 0 0xFF).advance .table 240).ppu.mode = .hblank ∧
    (let y := (display 0 0 0xFF).advance .table 444
     (y.ppu.mode, y.ppu.ly, y.ppu.acc) = (.oam, 1, 0)) := by
  decide +kernel

/-- S5: line 144 starts V-blank with interrupt 0. -/
theorem test_display_vblank :
    let y := (display 143 0 0xFF).advance .table 444
    (y.ppu.mode, y.ppu.ly, y.irq, y.frames.length) = (.vblank, 144, 0x01, 1) := by
  decide +kernel

/-- R437: V-blank lines count, and after line 153 comes line 0. -/
theorem test_vblank_lines :
    ([144, 153].map fun ly =>
      let x := display ly 0 0xFF
      let y := ({ x with ppu := { x.ppu with mode := .vblank } } : PpuIo).advance .table 456
      (y.ppu.mode, y.ppu.ly)) = [(.vblank, 145), (.oam, 0)] := by
  decide

/-- R551 and R500: one draw of each kind at a threshold of 4, and at 1 a draw of -1 keeps it at 1. -/
theorem test_throttle :
    ([(4, Throttle.down), (4, .keep), (4, .up), (1, .down)].map fun c =>
      let u := { Apu.fresh Config.defaultParams with resampleThreshold := c.1 }
      let y := ApuIo.advance ⟨u, [], { HostPort.quiet with draws := [c.2] }⟩ 4194304 c.1
      (y.apu.resampleThreshold, y.apu.resampleAcc, y.audio.length)) =
      [(3, 0, 1), (4, 0, 1), (5, 0, 1), (1, 0, 1)] := by
  decide

/-- The status interrupt at the start of line 1 with coincidence and OAM enables, and none while the line stays. -/
theorem test_status_interrupt :
    (let y := (display 0 0x60 1).advance .table 4
     (y.irq, y.ppu.statLine, y.ppu.readReg .stat) = (0x02, true, 0x62)) ∧
    (let y := (display 0 0x60 1).advance .table 80
     (y.ppu.statLine, y.ppu.readReg .stat) = (false, 0x63)) := by
  decide

/-- Rule R432: STAT reads its stored bits 7 to 3, the coincidence flag and the mode; rule R433: a write keeps the
low three bits out. -/
theorem test_stat_access :
    ([.hblank, .vblank, .oam, .transfer] : List PpuMode).map (fun m =>
      ({ Ppu.fresh with stat := 0x80, coin := true, mode := m } : Ppu).readReg .stat) = [0x84, 0x85, 0x86, 0x87] ∧
    ({ Ppu.fresh with stat := 0x87, mode := .oam } : Ppu).readReg .stat = 0x82 ∧
    ((display 0 0x78 0).writeReg .stat 0x87).ppu.stat = 0x80 := by
  decide

/-- S6: twelve sprites on a line. -/
def twelve : Ppu :=
  { Ppu.fresh with
    lcdc := 0x02
    oam := Memory.ofBytes 0 (([80, 72, 64, 56, 48, 40, 32, 24, 16, 8, 88, 8] : List Byte).flatMap fun x =>
      [16, x, 0, 0]) }

theorem test_sprite_selection :
    twelve.selection .table = [9, 8, 7, 6, 5, 4, 3, 2, 1, 0] ∧
    twelve.selection .x = [9, 11, 8, 7, 6, 5, 4, 3, 2, 1] := by
  decide

theorem test_tile_row_and_palette :
    (List.range 8).map (fun i => colourCode 0x7E 0x3C (7 - i)) = [0, 2, 3, 3, 3, 3, 2, 0] ∧
    (List.range 4).map (fun k => (paletteShade 0x1B k).toNat) = [3, 2, 1, 0] := by
  decide

/-- Line 0 with tile 1 of R463's example on the background and, from column 8, in the window; tile 2 (codes 1, 3) in
sprite 1, flipped, through OBP1; sprite 0 below the background. -/
def painted : PpuIo :=
  ⟨{ Ppu.fresh with
    lcdc := 0xF3, mode := .oam, bgp := 0x1B, obp0 := 0xE4, obp1 := 0x1B, wx := 15
    vram := [(16, 0x3C), (17, 0x7E), (32, 0xC0), (33, 0x40), (0x1800, 1), (0x1C00, 1)]
    oam := Memory.ofBytes 0 [16, 8, 1, 0x80, 16, 18, 2, 0x30] }, 0, []⟩

/-- By hand from R462 to R468. -/
theorem test_line_pixels :
    (List.range 18).map (fun c => (bgPixel painted.ppu c).toNat) =
      [3, 1, 0, 0, 0, 0, 1, 3, 3, 3, 3, 3, 3, 3, 3, 3, 3, 3] ∧
    (List.range 18).map (fun c => (winPixel painted.ppu c).map BitVec.toNat) =
      List.replicate 8 none ++ [3, 1, 0, 0, 0, 0, 1, 3, 3, 3].map some ∧
    (List.range 18).map (fun c => ((painted.advance .table 240).ppu.frame.pixel 0 c).map BitVec.toNat) =
      [3, 1, 3, 3, 3, 3, 1, 3, 3, 1, 0, 0, 0, 0, 1, 3, 0, 2].map some := by
  decide +kernel

/-- R463 with LCDC bit 4 clear: tile 0 stands at 0x9000, tile 255 at 0x8FF0. -/
theorem test_signed_tiles :
    (let p := { Ppu.fresh with lcdc := 0x81, bgp := 0xE4, vram := [(0x0FF0, 0x80), (0x1001, 0x80), (0x1801, 0xFF)] }
     ((bgPixel p 0).toNat, (bgPixel p 8).toNat, (p.bgShade 0).toNat, (p.bgShade 8).toNat)) = (2, 1, 2, 1) := by
  decide

/-! ## Sound (3.6) -/

/-- R552 (c): a duty step every 500 cycles at frequency 0x783; R531: the first noise step. -/
theorem test_channel_advance :
    ([499, 500, 4000].map fun n => (Pulse.advance ⟨true, 0, 64, 15, 0, 7⟩ 0x783 n).dutyPos) = [7, 0, 7] ∧
    (Wave.advance ⟨true, 0, 7, 31⟩ 0x783 250).wavePos = 0 ∧
    (Noise.advance ⟨true, 7, 7, 15, 0, 0x7FFF⟩ 0x00 1).lfsr = 0x3FFF := by
  decide

theorem test_noise_generator :
    (lfsrStep false)^[15] 0x7FFF = 0x4000 ∧ (lfsrStep false)^[16] 0x7FFF = 0x2000 ∧
    (lfsrStep true)^[7] 0x7FFF = 0x40C0 ∧ (lfsrStep true)^[8] 0x7FFF = 0x2020 ∧
    noisePeriod 0x37 = 896 ∧ noisePeriod 0x00 = 8 := by
  decide

/-- A sound unit switched on with channel 1 sweeping from 0x400. -/
def sweeping (nr10 : Byte) : Apu :=
  let u := Apu.fresh Config.defaultParams
  { u with regs := { u.regs with nr10 := nr10, nr52 := 0x80 }, sweep := ⟨0x400, 1, true⟩, ch1 := Pulse.fresh true }

theorem test_sweep :
    (sweeping 0x11).sweepTick.sweep.shadow = 0x600 ∧
    ((sweeping 0x11).sweepTick.sweepTick.sweep.shadow, (sweeping 0x11).sweepTick.sweepTick.ch1.enabled) =
      (0x600, false) ∧
    ((sweeping 0x19).sweepTick.regs.nr13, (sweeping 0x19).sweepTick.regs.nr14) = (0x00, 0x02) := by
  decide

theorem test_envelope_duty_wave_mix :
    envelopeStep 0xF1 15 1 = (14, 1) ∧ envelopeStep 0x09 15 1 = (15, 1) ∧
    (List.range 8).map (dutyTable 2) = [1, 0, 0, 0, 0, 1, 1, 1] ∧
    (Wave.sample ⟨true, 0, 0, 1⟩ [(0, 0x1F)] 0x40, Wave.sample ⟨true, 0, 0, 1⟩ [(0, 0x1F)] 0x20) = (7, 15) ∧
    (mixSide 7 0xFF 4 15 0 8 15, mixSide 7 0x12 4 15 0 8 15, mixSide 0 0x12 0 15 0 8 15) = (45, 22, 0) := by
  decide

/-- S7: a length counter of 1 with its enable set runs out at the first length tick. -/
theorem test_length_counter :
    (Pulse.lengthTick ⟨true, 0, 1, 15, 0, 0⟩ 0x40).enabled = false ∧
    (Pulse.lengthTick ⟨true, 0, 1, 15, 0, 0⟩ 0x00).enabled = true := by
  decide

/-- Rules R491 to R493: the status bits of NR52, the lengths that NR11 and NR31 load, channel 3 switched off by NR30,
all four by NR52. -/
theorem test_sound_registers :
    let u := { Apu.fresh Config.defaultParams with
      ch1 := Pulse.fresh true, ch3 := ⟨true, 0, 7, 5⟩, ch4 := ⟨true, 0, 1, 15, 1, 0⟩ }
    let on := u.writeReg .nr52 0x8F
    (on.readReg .nr52, (on.writeReg .nr30 0x7F).readReg .nr52, (on.writeReg .nr52 0x7F).readReg .nr52) =
      (0x8D, 0x89, 0x70) ∧
    ((u.writeReg .nr11 0xFF).ch1.length, (u.writeReg .nr11 0xC0).ch1.length) = (1, 64) ∧
    ((u.writeReg .nr31 0xFF).ch3.length, (u.writeReg .nr31 0x00).ch3.length) = (1, 256) ∧
    ((u.writeReg .nr14 0x83).readReg .nr14, (u.writeReg .nr30 0x80).ch3.enabled) = (0x03, true) := by
  decide

/-! ## Cartridge, clock, construction (3.7) -/

/-- A bank controller of the given kind with a blank image. -/
def cartOf (kind : MbcKind) (cram : Nat) : Cart := Cart.load ⟨kind, ⟨[], 0x200000⟩, [], cram⟩ BankReset.preset

theorem test_mbc1_banks :
    ((cartOf .mbc1 0).control 0x2000 0x05).romIndex 0x4000 = 0x14000 ∧
    ((cartOf .mbc1 0).control 0x2000 0x20).romBank = 1 ∧
    (((cartOf .mbc1 0).control 0x4000 0x01).control 0x2000 0x05).romIndex 0x4000 = 0x94000 ∧
    (let c := (((cartOf .mbc1 0).control 0x4000 0x01).control 0x2000 0x05).control 0x6000 0x01
     (c.romBank, c.ramBank) = (5, 1)) := by
  decide

theorem test_mbc2 :
    ((cartOf .mbc2 512).control 0x2100 0x07).romBank = 7 ∧
    (let c := (cartOf .mbc2 512).control 0x0000 0x0A
     ((c.writeAt 0xA000 0xAB).toOption.bind fun d => (d.readAt 0xA000).toOption) = some 0xFB ∧
     (c.readAt 0xA200).toOption = none) := by
  decide

theorem test_mbc3_clock :
    RtcRegs.tickSecond ⟨59, 59, 23, 0xFF, 0x01⟩ = ⟨0, 0, 0, 0x00, 0x80⟩ ∧
    ((cartOf .mbc3 0).control 0x2000 0x00).romBank = 1 ∧
    (let c := { cartOf .mbc3 0 with rtc := ⟨5, 0, 0, 0, 0⟩ }
     let d := (((c.control 0x0000 0x0A).control 0x6000 0x00).control 0x6000 0x01).control 0x4000 0x08
     (d.readAt 0xA000).toOption = some 0x05) := by
  decide

/-- Rule R593: fields out of range wrap at their masks without a carry; rule R592: the second that completes at
CLOCK_HZ cycles, and the halt bit. -/
theorem test_clock_advance :
    RtcRegs.tickSecond ⟨61, 5, 6, 7, 0x80⟩ = ⟨62, 5, 6, 7, 0x80⟩ ∧
    RtcRegs.tickSecond ⟨63, 59, 23, 7, 0⟩ = ⟨0, 59, 23, 7, 0⟩ ∧
    RtcRegs.tickSecond ⟨59, 63, 23, 7, 0⟩ = ⟨0, 0, 23, 7, 0⟩ ∧
    RtcRegs.tickSecond ⟨59, 59, 31, 7, 0⟩ = ⟨0, 0, 0, 7, 0⟩ ∧
    (let c := { cartOf .mbc3 0 with rtcAcc := 90 }
     ((c.rtcAdvance 100 9).rtcAcc, (c.rtcAdvance 100 9).rtc.s) = (99, 0) ∧
     ((c.rtcAdvance 100 10).rtcAcc, (c.rtcAdvance 100 10).rtc.s) = (0, 1) ∧
     ((c.rtcAdvance 100 215).rtcAcc, (c.rtcAdvance 100 215).rtc.s) = (5, 3) ∧
     ({ c with rtc := ⟨0, 0, 0, 0, 0x40⟩ } : Cart).rtcAdvance 100 215 = { c with rtc := ⟨0, 0, 0, 0, 0x40⟩ }) := by
  decide

/-- What construction answers for a header. -/
def built (len : Nat) (ty ram : Byte) : Option MbcKind :=
  (construct
    { params := Config.defaultParams, cartImage := ⟨(Memory.write [] 0x147 ty).write 0x149 ram, len⟩
      bootImage := none, cram := [] }).toOption.map (·.cart.kind)

theorem test_construction :
    built 0x149 0x00 0x00 = none ∧ built 0x8000 0x04 0x00 = none ∧ built 0x8000 0x01 0x05 = none ∧
    built 0x8000 0x05 0x05 = some .mbc2 ∧ built 0x8000 0x13 0x03 = some .mbc3 ∧
    built 0x8000 0x00 0x00 = some .null := by
  decide

/-- What a host supplies for the blank cartridge. -/
def supply (m : List BusClaim) (r : Option ResetState) : HostSupply where
  params := Config.defaultParams
  cartImage := ⟨[], 0x8000⟩
  bootImage := none
  cram := []
  busMap := m
  resetState := r

/-- Rules R84, R612: the start state T0 is constructed from a ResetState that is no preset. -/
theorem test_construct_reset_state : construct (supply defaultUnits (some quietReset)) = .ok (t0 []) := rfl

/-- The table of rule R101 with 0xE000 to 0xFDFF mirroring work RAM and the addresses without a register reading
0xFF. -/
def familyUnits : List BusClaim :=
  ⟨0xE000, 0xFDFF, .workRam, 0xC000⟩ :: (defaultUnits ++ [.direct 0xFEA0 0xFFFF .openBus])

/-- The machine with that table and one byte of work RAM. -/
def familyState : State :=
  State.create Config.defaultParams familyUnits none ⟨.null, ⟨[], 0x8000⟩, [], 0⟩ HostPort.quiet
    { quietReset with wram := [(0x1DFF, 0x77)] }

/-- Rule R101: the mirror shows the same bytes, 0xFF51 reads 0xFF, 0xFF40 is still the display's; rule R91: a range
with `fromAddr > toAddr` or past 65535 is refused. -/
theorem test_bus_map :
    (construct (supply familyUnits none)).toOption.map (·.busMap) = some familyUnits ∧
    ([0xDDFF, 0xFDFF, 0xFF51, 0xFEA0, 0xFF40, 0xFF15] : List Word).map (fun a => (familyState.readByte a).toOption) =
      [some 0x77, some 0x77, some 0xFF, some 0xFF, some 0x00, none] ∧
    (match familyState.writeByte 0xE001 0x55 with
     | .done _ t => (t.readByte 0xC001).toOption
     | .fatal _ _ => none) = some 0x55 ∧
    (construct (supply [.direct 5 4 .workRam] none)).toOption.isNone = true ∧
    (construct (supply [.direct 0 0x10000 .workRam] none)).toOption.isNone = true := by
  decide

/-- Rule R613: a restart keeps the host's queues. -/
theorem test_restart_keeps_host :
    (((joyState true ⟨.start, true⟩).restart (supply defaultUnits none)).toOption.map fun s =>
      (s.host.events, s.regs.pc)) = some ([⟨.start, true⟩], 0x0100) := by
  decide

/-- The fetch of the next step finds what `withFetchWord` places, and reset runs it. -/
theorem test_with_fetch_word :
    after (State.reset.withFetchWord 8 0x3C) (fun t => (t.regs.a, t.regs.pc)) = some (0x02, 0x0101) ∧
    after (State.reset.withFetchWord 16 0xCB37) (fun t => (t.regs.a, t.regs.pc)) = some (0x10, 0x0102) := by
  decide

/-! ## Witnesses: states and operands that meet the hypotheses of the statements, clause by clause -/

/-- A plain test state with HL, SP and A chosen, F = 0xF0 or 0x00. -/
def regState (hl sp : Word) (f : Byte) : State :=
  t0At [] ⟨0x12, f, 0xC0, 0x00, 0xDF, 0xFF, hiByte hl, loByte hl, sp, 0x0100⟩

/-- What a read answers: the byte, or the cause it raises. -/
def readOf (s : State) (a : Word) : Byte ⊕ Fatal :=
  match s.readByte a with
  | .ok v => .inl v
  | .error c => .inr c

/-- The cause a write raises, or none. -/
def writeFault (s : State) (a : Word) (v : Byte) : Option Fatal :=
  match s.writeByte a v with
  | .done _ _ => none
  | .fatal c _ => some c

theorem readOf_ok {s : State} {a : Word} {v : Byte} (h : readOf s a = .inl v) : s.readByte a = .ok v := by
  unfold readOf at h
  split at h <;> simp_all

theorem readOf_error {s : State} {a : Word} {c : Fatal} (h : readOf s a = .inr c) : s.readByte a = .error c := by
  unfold readOf at h
  split at h <;> simp_all

theorem writeFault_none {s : State} {a : Word} {v : Byte} (h : writeFault s a v = none) :
    ∃ w, s.writeByte a v = .done () w := by
  unfold writeFault at h
  split at h
  · exact ⟨_, ‹_›⟩
  · simp at h

theorem writeFault_some {s : State} {a : Word} {v : Byte} {c : Fatal} (h : writeFault s a v = some c) :
    ∃ w, s.writeByte a v = .fatal c w := by
  unfold writeFault at h
  split at h
  · simp at h
  · simp only [Option.some.injEq] at h
    subst h
    exact ⟨_, ‹_›⟩

theorem after_some {α : Type} {s : State} {f : State → α} {x : α} (h : after s f = some x) :
    ∃ t, step s = .next t ∧ f t = x := by
  unfold after at h
  split at h
  · exact ⟨_, ‹_›, by simpa using h⟩
  · simp at h

theorem quiet_t0At (bs : List Byte) (r : Regs) : (t0At bs r).Quiet := And.intro rfl ⟨rfl, rfl, rfl, rfl⟩

theorem map_t0At (bs : List Byte) (r : Regs) : (t0At bs r).MapSound := rfl

theorem canonical_t0 : (t0 []).MemoriesCanonical :=
  ⟨rfl, rfl, rfl, rfl, rfl, rfl, rfl, fun _ h => nomatch h⟩

theorem canonical_regState (hl sp : Word) (f : Byte) : (regState hl sp f).MemoriesCanonical :=
  ⟨rfl, rfl, rfl, rfl, rfl, rfl, rfl, fun _ h => nomatch h⟩

/-- `t0` with a press waiting, `ticks` before it at the boundary. -/
def pressed (bytes : List Byte) (ticks : List HostTick) : State :=
  { t0 bytes with host := ⟨ticks, [⟨.a, true⟩], [], 0⟩ }

theorem pastBoundary_of_nil {s : State} (h : s.run = .running) (ht : s.host.ticks = []) : s.PastBoundary :=
  ⟨h, fun tick rest e => by rw [ht] at e; cases e⟩

theorem pastBoundary_of_entry {s : State} {tick : HostTick} (h : s.run = .running) (ht : s.host.ticks = [tick])
    (h1 : tick.stopFlag = false) (h2 : tick.pauseFlag = false) : s.PastBoundary :=
  ⟨h, fun _ _ e => by rw [ht] at e; cases e; exact ⟨h1, h2⟩⟩

/-- StepRunsDecodedInstruction: an instruction of three bytes that runs on, one that crashes, and one behind an entry and
an event; a fetch that raises at the opcode and at each later byte. -/
theorem witness_step_runs_decoded :
    ((t0 [0xC3, 0x50, 0x01]).PastBoundary ∧ (t0 [0xC3, 0x50, 0x01]).afterInput = t0 [0xC3, 0x50, 0x01] ∧
      (t0 [0xC3, 0x50, 0x01]).BytesAt 0x0100 [0xC3, 0x50, 0x01] ∧
      decode [0xC3, 0x50, 0x01] = .ok (.jpNn 0x0150, []) ∧
      ∃ t, exec (.jpNn 0x0150) (t0 [0xC3, 0x50, 0x01]) = .next t ∧ t.run = .running) ∧
    ((t0 [0xD3]).PastBoundary ∧ (t0 [0xD3]).afterInput = t0 [0xD3] ∧ (t0 [0xD3]).BytesAt 0x0100 [0xD3] ∧
      decode [0xD3] = .ok (.unrecD3, []) ∧ ∃ t, exec .unrecD3 (t0 [0xD3]) = .next t ∧ t.run ≠ .running) ∧
    (let s := pressed [0x00] [⟨false, false, [⟨.b, true⟩]⟩]
     s.PastBoundary ∧ s.afterInput.halt = false ∧ s.afterInput.stop = false ∧ s.afterInput.BytesAt 0x0100 [0x00] ∧
      s.afterInput.host = ⟨[], [⟨.b, true⟩], [], 0⟩) ∧
    (let s := t0At [] ⟨0, 0, 0, 0, 0, 0, 0, 0, 0xDFFE, 0xE000⟩
     s.afterInput = s ∧ readOf s 0xE000 = .inr .accessViolation) ∧
    (let s := { t0At [] ⟨0, 0, 0, 0, 0, 0, 0, 0, 0xDFFE, 0xDFFF⟩ with wram := [(0x1FFF, 0xC3)] }
     s.afterInput = s ∧ readOf s 0xDFFF = .inl 0xC3 ∧ ([] : List Byte).length + 1 < opLength 0xC3 ∧
      readOf s (0xDFFF + BitVec.ofNat 16 1) = .inr .accessViolation) ∧
    (let s := { t0At [] ⟨0, 0, 0, 0, 0, 0, 0, 0, 0xDFFE, 0xDFFE⟩ with wram := [(0x1FFE, 0xC3)] }
     s.afterInput = s ∧ (readOf s 0xDFFE, readOf s 0xDFFF) = (.inl 0xC3, .inl 0) ∧
      [(0 : Byte)].length + 1 < opLength 0xC3 ∧ readOf s (0xDFFE + BitVec.ofNat 16 2) = .inr .accessViolation) := by
  refine ⟨⟨pastBoundary_of_nil rfl rfl, rfl, ⟨rfl, rfl, rfl, trivial⟩, rfl, _, rfl, rfl⟩,
    ⟨pastBoundary_of_nil rfl rfl, rfl, ⟨rfl, trivial⟩, rfl, _, rfl, by decide⟩,
    ⟨pastBoundary_of_entry rfl rfl rfl rfl, rfl, rfl, ⟨rfl, trivial⟩, rfl⟩,
    ⟨rfl, by decide⟩, ⟨rfl, by decide, by decide, by decide⟩, ⟨rfl, by decide, by decide, by decide⟩⟩

/-- DecodeOfEncodeReturnsInstruction: well-formed instructions at the ends of their operand ranges. -/
theorem witness_decode_of_encode :
    (Instr.rstT 7).wellFormed = true ∧ (Instr.popQq .hl).wellFormed = true ∧ Instr.popAf.wellFormed = true ∧
    (Instr.setR 7 .a).wellFormed = true ∧ (Instr.ldANn 0xFFFF).wellFormed = true := by
  decide

/-- LoadByteResults: addresses at the ends of arrays that are read, and ones that raise. -/
theorem witness_load_byte :
    readOf (regState 0xDFFF 0xDFFE 0) 0xC000 = .inl 0 ∧ readOf (regState 0xDFFF 0xDFFE 0) 0xDFFF = .inl 0 ∧
    readOf (regState 0x0000 0xDFFE 0) 0x0000 = .inl 0 ∧ readOf (regState 0xFFFF 0xDFFE 0) 0xFFFF = .inl 0 ∧
    readOf (regState 0xE000 0xDFFE 0) 0xE000 = .inr .accessViolation ∧
    readOf (regState 0xA000 0xDFFE 0) 0xA000 = .inr .outOfRange ∧
    readOf (t0 []) (BitVec.ofNat 16 (0xFF00 + (0x00 : Byte).toNat)) = .inl 0x0F ∧
    readOf (t0 []) (BitVec.ofNat 16 (0xFF00 + (0xFF : Byte).toNat)) = .inl 0 ∧
    readOf (t0 []) (BitVec.ofNat 16 (0xFF00 + (0x01 : Byte).toNat)) = .inr .accessViolation ∧
    (regState 0xFFFF 0xDFFE 0).hl + 1 = 0 ∧ (regState 0x0000 0xDFFE 0).hl - 1 = 0xFFFF := by
  decide

/-- StoreByteResults and StoreStackPointerResult: stores that complete and ones that raise, the second byte of
a word at 0x0000 after 0xFFFF, and one past work RAM. -/
theorem witness_store :
    writeFault (regState 0xC000 0xDFFE 0) 0xC000 0x12 = none ∧ writeFault (regState 0xDFFF 0xDFFE 0) 0xDFFF 0x12 = none ∧
    writeFault (regState 0xFF80 0xDFFE 0) 0xFF80 0x12 = none ∧ writeFault (regState 0xFF50 0xDFFE 0) 0xFF50 0x12 =
      some .accessViolation ∧
    writeFault (regState 0xE000 0xDFFE 0) 0xE000 0x12 = some .accessViolation ∧
    (∃ u w, (regState 0 0xDFFE 0).writeByte 0xFFFF 0xFE = .done () u ∧ u.writeByte (0xFFFF + 1) 0xDF = .done () w) ∧
    (∃ u w, (regState 0 0xDFFE 0).writeByte 0xDFFF 0xFE = .done () u ∧
      u.writeByte (0xDFFF + 1) 0xDF = .fatal .accessViolation w) := by
  refine ⟨by decide, by decide, by decide, by decide, by decide, ⟨_, _, rfl, rfl⟩, _, _, rfl, rfl⟩

/-- PushResults, CallResults: both writes complete; the first raises; the second raises. -/
theorem witness_push (v : Word) :
    (∃ u w, (regState 0 0xC002 0).writeByte (0xC002 - 1) (hiByte v) = .done () u ∧
      u.writeByte (0xC002 - 2) (loByte v) = .done () w) ∧
    (∃ u, (regState 0 0xE001 0).writeByte (0xE001 - 1) (hiByte v) = .fatal .accessViolation u) ∧
    (∃ u w, (regState 0 0xFF81 0).writeByte (0xFF81 - 1) (hiByte v) = .done () u ∧
      u.writeByte (0xFF81 - 2) (loByte v) = .fatal .accessViolation w) :=
  ⟨⟨_, _, rfl, rfl⟩, ⟨_, rfl⟩, _, _, rfl, rfl⟩

/-- PopResults, ReturnResults: both reads complete (SP + 1 past 0xFFFF is 0x0000); the first raises; the second
raises. -/
theorem witness_pop :
    readOf (regState 0 0xFFFF 0) 0xFFFF = .inl 0 ∧ readOf (regState 0 0xFFFF 0) (0xFFFF + 1) = .inl 0 ∧
    readOf (regState 0 0xE000 0) 0xE000 = .inr .accessViolation ∧
    readOf (regState 0 0xDFFF 0) 0xDFFF = .inl 0 ∧
    readOf (regState 0 0xDFFF 0) (0xDFFF + 1) = .inr .accessViolation := by
  decide

/-- AddResults, SubtractResults, LogicResults, CompareResults, BitInstructionResults: the operand in a register,
at HL, and an HL that raises. -/
theorem witness_operand :
    (regState 0xC000 0 0xF0).reg .a = 0x12 ∧ (regState 0xC000 0 0xF0).reg .h = 0xC0 ∧
    readOf (regState 0xC000 0 0xF0) (regState 0xC000 0 0xF0).hl = .inl 0 ∧
    readOf (regState 0xFDFF 0 0) (regState 0xFDFF 0 0).hl = .inr .accessViolation := by
  decide

/-- IncDecMemoryResults, RotateShiftMemoryResults, RES and SET at HL: read and write complete; the read raises;
only the write raises (MBC2's controller has no such address; the boot ROM refuses every write). -/
theorem witness_modify (v : Byte) :
    (readOf (regState 0xC000 0 0xF0) (regState 0xC000 0 0xF0).hl = .inl 0 ∧
      ∃ w, (regState 0xC000 0 0xF0).writeByte (regState 0xC000 0 0xF0).hl v = .done () w) ∧
    readOf (regState 0xFEFF 0 0) (regState 0xFEFF 0 0).hl = .inr .accessViolation ∧
    (let s := State.resetBoot Config.defaultParams ⟨.null, ⟨[], 0x200000⟩, [], 0⟩ ⟨[], 256⟩
     readOf s s.hl = .inl 0 ∧ ∃ w, s.writeByte s.hl v = .fatal .accessViolation w) :=
  ⟨⟨by decide, _, rfl⟩, by decide, by decide, _, rfl⟩

/-- JumpResults, CallResults, ReturnResults: each condition both ways. -/
theorem witness_conditions :
    ([.nz, .z, .nc, .c] : List Cond).map (regState 0 0 0xF0).holds = [false, true, false, true] ∧
    ([.nz, .z, .nc, .c] : List Cond).map (regState 0 0 0x00).holds = [true, false, true, false] := by
  decide

/-- SystemInstructionResults: EI_DELAY = 0. -/
theorem witness_ei_at_once : (t0 []).params.eiDelay = 0 := rfl

/-- T0 with EI_DELAY = 1. -/
def delayed (bytes : List Byte) (wait : Option Nat) : State :=
  { t0 bytes with params := { Config.defaultParams with eiDelay := 1 }, eiPending := wait }

/-- DelayedEnableComesAfterNextInstruction: the EI itself, and the instruction after it. -/
theorem witness_delayed_enable :
    (delayed [0xFB] none).params.eiDelay = 1 ∧ (delayed [0xFB] none).Quiet ∧ (delayed [0xFB] none).ime = false ∧
    (delayed [0xFB] none).eiPending = none ∧ (delayed [0xFB] none).readByte 0x0100 = .ok 0xFB ∧
    (delayed [0x00] (some 1)).params.eiDelay = 1 ∧ (delayed [0x00] (some 1)).Quiet ∧
    (delayed [0x00] (some 1)).BytesAt 0x0100 [0x00] ∧ decode [0x00] = .ok (.nop, []) ∧
    ∃ t, exec .nop (delayed [0x00] (some 1)) = .next t ∧ t.run = .running ∧ t.eiPending = some 1 :=
  ⟨rfl, And.intro rfl ⟨rfl, rfl, rfl, rfl⟩, rfl, rfl, rfl, rfl, And.intro rfl ⟨rfl, rfl, rfl, rfl⟩,
    ⟨rfl, trivial⟩, rfl, _, rfl, rfl, rfl⟩

/-- PrefixRunsExtendedInstruction: register forms at both ends of the table. -/
theorem witness_prefix_register : (0x00 : Byte).toNat % 8 ≠ 6 ∧ (0xFF : Byte).toNat % 8 ≠ 6 := by decide

/-- UnrecognizedOpcodesCrash: a quiet machine at the first and the last of the eleven. -/
theorem witness_unrecognized :
    (t0 [0xD3]).Quiet ∧ (t0 [0xD3]).readByte 0x0100 = .ok 0xD3 ∧ (t0 [0xFD]).Quiet ∧
    (t0 [0xFD]).readByte 0x0100 = .ok 0xFD :=
  ⟨quiet_t0At _ _, rfl, quiet_t0At _ _, rfl⟩

/-- InstructionsReportCyclesAndLength, NonStoringInstructionsLeaveMemory: instructions that go on, a plain one, a
conditional transfer, and one of those that write a mode. -/
theorem witness_frames :
    (∃ t, exec .nop (t0 []) = .next t ∧ t.Alive) ∧ conditionOf .nop = none ∧ isTransfer .nop = false ∧
    storeAddresses .nop (t0 []) = [] ∧
    (∃ t, exec (.jpCcNn .nz 0xC000) (t0 []) = .next t ∧ t.Alive) ∧ conditionOf (.jpCcNn .nz 0xC000) = some .nz ∧
    storeAddresses (.jpCcNn .nz 0xC000) (t0 []) = [] ∧
    storeAddresses (.callCcNn .z 0xC000) (t0 []) = [] ∧
    (∃ t, exec .halt (t0 []) = .next t ∧ t.Alive) ∧ storeAddresses .halt (t0 []) = [] := by
  refine ⟨⟨_, rfl, ?_⟩, rfl, rfl, rfl, ⟨_, rfl, ?_⟩, rfl, rfl, by decide, ⟨_, rfl, ?_⟩, rfl⟩ <;> intro c <;> nofun

/-- `PlainAt` from a computed target. -/
theorem plainAt_workRam {s : State} {a : Word} (k : Nat) (h : s.target a = some (.workRam, k)) (l : 0xC000 ≤ k)
    (r : k < 0xE000) : s.PlainAt a :=
  ⟨k, .inl ⟨h, l, r⟩⟩

/-- PlainWriteReadsBack: both ends of work RAM and of high RAM. -/
theorem witness_plain :
    (t0 []).MemoriesCanonical ∧ (t0 []).MapSound ∧ (t0 []).PlainAt 0xC000 ∧ (t0 []).PlainAt 0xDFFF ∧
    (t0 []).PlainAt 0xFF80 ∧ (t0 []).PlainAt 0xFFFE :=
  ⟨canonical_t0, map_t0At _ _, plainAt_workRam 0xC000 (by decide) (by decide) (by decide),
    plainAt_workRam 0xDFFF (by decide) (by decide) (by decide),
    ⟨0xFF80, .inr (.inl (by decide))⟩, ⟨0xFFFE, .inr (.inl (by decide))⟩⟩

/-- PlainWriteReadsBack: both ends of video RAM and of the sprite table. -/
theorem witness_plain_display :
    (t0 []).PlainAt 0x8000 ∧ (t0 []).PlainAt 0x9FFF ∧ (t0 []).PlainAt 0xFE00 ∧ (t0 []).PlainAt 0xFE9F :=
  ⟨⟨0x8000, .inr (.inr (by decide))⟩, ⟨0x9FFF, .inr (.inr (by decide))⟩, ⟨0xFE00, .inr (.inr (by decide))⟩,
    ⟨0xFE9F, .inr (.inr (by decide))⟩⟩

/-- PlainWriteReadsBack, StoringInstructionsChangeStoredBytesOnly: a mirror, where two addresses reach one byte. -/
theorem witness_plain_mirror :
    familyState.MemoriesCanonical ∧ familyState.PlainAt 0xFDFF ∧
    familyState.target 0xDDFF = familyState.target 0xFDFF ∧ familyState.target 0xDDFE ≠ familyState.target 0xFDFF :=
  ⟨⟨by decide, rfl, rfl, rfl, rfl, rfl, rfl, fun _ h => nomatch h⟩,
    plainAt_workRam 0xDDFF (by decide) (by decide) (by decide), by decide, by decide⟩

/-- StoringInstructionsChangeStoredBytesOnly: one byte at the end of work RAM, and the two bytes of a push. -/
theorem witness_storing :
    (regState 0xDFFF 0xC002 0).MemoriesCanonical ∧ (regState 0xDFFF 0xC002 0).MapSound ∧
    storeAddresses (.ldHlR .b) (regState 0xDFFF 0xC002 0) = [0xDFFF] ∧
    storeAddresses (.pushQq .bc) (regState 0xDFFF 0xC002 0) = [0xC001, 0xC000] :=
  ⟨canonical_regState _ _ _, map_t0At _ _, by decide, by decide⟩

theorem target_regState (hl sp : Word) (f : Byte) (a : Word) : (regState hl sp f).target a = (t0 []).target a := rfl

/-- StoringInstructionsChangeStoredBytesOnly: those addresses are plain, and 0xC002 reaches another byte. -/
theorem witness_storing_plain :
    (regState 0xDFFF 0xC002 0).PlainAt 0xDFFF ∧ (regState 0xDFFF 0xC002 0).PlainAt 0xC001 ∧
    (regState 0xDFFF 0xC002 0).PlainAt 0xC000 ∧
    (regState 0xDFFF 0xC002 0).target 0xC002 ≠ (regState 0xDFFF 0xC002 0).target 0xC001 ∧
    (regState 0xDFFF 0xC002 0).target 0xC002 ≠ (regState 0xDFFF 0xC002 0).target 0xC000 := by
  simp only [State.PlainAt, target_regState]
  exact ⟨⟨0xDFFF, .inl (by decide)⟩, ⟨0xC001, .inl (by decide)⟩, ⟨0xC000, .inl (by decide)⟩, by decide, by decide⟩

/-- DispatchTakesLowestPendingSource: nothing to take, sources 0 and 4, and a push whose first or second write
raises. -/
theorem witness_dispatch (v w : Byte) :
    (irqState [] false 0x1F 0x1F).ime = false ∧
    (∀ k, k < 5 → ((0xE0 : Byte).getLsbD k && (0xFF : Byte).getLsbD k) = false) ∧
    ((0x01 : Byte).getLsbD 0 && (0x1F : Byte).getLsbD 0) = true ∧
    ((0x10 : Byte).getLsbD 4 && (0x1F : Byte).getLsbD 4) = true ∧
    (∀ k, k < 4 → ((0x10 : Byte).getLsbD k && (0x1F : Byte).getLsbD k) = false) ∧
    (irqState [] true 0x10 0x1F).ime = true ∧ (irqState [] true 0x10 0x1F).params.intDispatchCycles = 0 ∧
    0 < { Config.defaultParams with intDispatchCycles := 20 }.intDispatchCycles ∧
    (∃ x y, (irqState [] true 0x10 0x1F).writeByte (0xDFFE - 1) v = .done () x ∧
      x.writeByte (0xDFFE - 2) w = .done () y) ∧
    (∃ x, (regState 0 0xE001 0).writeByte (0xE001 - 1) v = .fatal .accessViolation x) ∧
    (∃ x y, (regState 0 0xFF81 0).writeByte (0xFF81 - 1) v = .done () x ∧
      x.writeByte (0xFF81 - 2) w = .fatal .accessViolation y) :=
  ⟨rfl, by decide, by decide, by decide, by decide, rfl, rfl, by decide, ⟨_, _, rfl, rfl⟩, ⟨_, rfl⟩, _, _, rfl, rfl⟩

/-- SuspendedStepIdlesAndWakes: halt, stop, a flag that is seen with and without its enable, and one that is not; the
master-enable clear, and set with a request that is not enabled; a halted machine with an entry and an event. -/
theorem witness_suspended :
    (t0 []).ime = false ∧
    (let s := { t0 [] with halt := true, ime := true, ieReg := 0x0F, ifReg := 0x10 }
     let t := ({ s with cyc := s.params.idleCycles } : State).advanceClocks s.params.idleCycles
     s.ime = true ∧ t.ifReg = 0x10 ∧ ∀ k, k < 5 → (t.ieReg.getLsbD k && t.ifReg.getLsbD k) = false) ∧
    (let s := { t0 [] with halt := true }
     s.PastBoundary ∧ s.afterInput.halt = true) ∧
    (let s := { t0 [] with stop := true }
     s.PastBoundary ∧ s.afterInput.stop = true) ∧
    (let s := { pressed [] [⟨false, false, []⟩] with halt := true, stop := true }
     s.PastBoundary ∧ s.afterInput.halt = true ∧ s.afterInput.stop = false ∧ s.afterInput.host.events = []) ∧
    ((0x10 : Byte).getLsbD 4 && ((0x00 : Byte).getLsbD 4 || !(t0 []).params.wakeMaskedByIe)) = true ∧
    (∀ k, k < 5 → ((0x10 : Byte).getLsbD k && ((0x0F : Byte).getLsbD k || !true)) = false) := by
  refine ⟨rfl, by decide +kernel, ⟨pastBoundary_of_nil rfl rfl, rfl⟩, ⟨pastBoundary_of_nil rfl rfl, rfl⟩,
    ⟨pastBoundary_of_entry rfl rfl rfl rfl, rfl, rfl, rfl⟩, by decide, by decide⟩

/-- HostFlagsAndTerminalStates: both terminal states, the stop flag (with the pause flag too), the pause flag. -/
theorem witness_host :
    ({ t0 [] with run := .crashed .outOfRange } : State).run = .crashed .outOfRange ∧
    ({ t0 [] with run := .exited } : State).run = .exited ∧
    ∀ tick ∈ ([⟨true, true, []⟩, ⟨true, false, []⟩, ⟨false, true, [⟨.a, true⟩]⟩] : List HostTick),
      let s := { t0 [] with host := ⟨[tick], [], [], 0⟩ }
      s.run = .running ∧ s.host.ticks = [tick] ∧ (tick.stopFlag = true ∨ tick.pauseFlag = true) := by
  refine ⟨rfl, rfl, ?_⟩
  intro tick h
  exact ⟨rfl, rfl, by fin_cases h <;> decide⟩

/-- JoypadEventsAndReads: no event, a press, a release, a sound map; a step that goes on, with an event and with an
entry whose arrival it leaves queued. -/
theorem witness_joypad :
    (t0 []).host.events = [] ∧ (joyState false ⟨.start, true⟩).host.events = [⟨.start, true⟩] ∧
    (joyState true ⟨.a, false⟩).host.events = [⟨.a, false⟩] ∧ (t0 []).MapSound ∧
    ((pressed [0x00] []).run = .running ∧ (pressed [0x00] []).host.ticks = [] ∧
      (pressed [0x00] []).host.events = [⟨.a, true⟩]) ∧
    (let s := pressed [0x00] [⟨false, false, [⟨.b, true⟩]⟩]
     s.PastBoundary ∧ s.host.ticks = [⟨false, false, [⟨.b, true⟩]⟩] ∧
      (after s fun t => (t.run, t.host.events, t.joypad.pressed.a)) = some (.running, [⟨.b, true⟩], true)) :=
  ⟨rfl, rfl, rfl, map_t0At _ _, ⟨rfl, rfl, rfl⟩, pastBoundary_of_entry rfl rfl rfl rfl, rfl, by decide⟩

/-- TimerAdvanceIsExact: disabled; enabled one short of the threshold, at it, and one short of twice it. -/
theorem witness_timer :
    (0x03 : Byte).getLsbD 2 = false ∧ (0x05 : Byte).getLsbD 2 = true ∧ (0x05 : Byte).toNat % 4 = 1 ∧
    12 + 3 < 16 ∧ 16 ≤ 12 + 4 ∧ 12 + 4 < 2 * 16 ∧ 16 ≤ 12 + 19 ∧ 12 + 19 < 2 * 16 := by
  decide

/-- TimerRegisterAccesses: rate bits kept, rate bits changed. -/
theorem witness_timer_registers :
    (t0 []).MapSound ∧ (0x04 : Byte).toNat % 4 = (t0 []).timer.tac.toNat % 4 ∧
    (0x03 : Byte).toNat % 4 ≠ (t0 []).timer.tac.toNat % 4 :=
  ⟨map_t0At _ _, by decide, by decide⟩

/-- DisplayAdvanceRendersAndSettles: the last cycle of OAM search on lines 0 and 143; columns with and without a sprite
attempt, before the last and at it, with a queue of one sprite. -/
theorem witness_display_advance :
    (([0, 143] : List Nat).all fun ly =>
      let p := { (display ly 0 0xFF).ppu with acc := 30 }
      p.lcdc.getLsbD 7 && decide (p.mode = .oam ∧ p.ly < 144 ∧ p.acc + 50 = 80)) = true ∧
    (([0, 15, 16, 158, 159] : List Nat).all fun c =>
      let p := { (display 143 0 0xFF).ppu with mode := .transfer, col := c, queue := [0] }
      p.lcdc.getLsbD 7 && decide (p.mode = .transfer ∧ p.ly < 144 ∧ p.acc = 0 ∧ p.col < 160)) = true ∧
    ((display 0 0 0xFF).advance .table 79).ppu.mode = .oam ∧
    ((display 0 0 0xFF).advance .table 80).ppu.mode = .transfer := by
  decide

/-- DisplayLineTimelineAndPixels: a display at the start of line 0 and of line 143, and of V-blank lines 144, 152 and
153; the clauses' ends. -/
theorem witness_display_line :
    (([144, 152, 153] : List Nat).all fun ly =>
      let p := { (display ly 0 0xFF).ppu with mode := .vblank }
      p.lcdc.getLsbD 7 && decide (p.mode = .vblank ∧ p.acc = 0 ∧ 144 ≤ p.ly ∧ p.ly ≤ 153)) = true ∧
    (455 < 456 ∧ 456 ≤ 456 ∧ 152 < 153) ∧
    (∀ ly ∈ [0, 143], (display ly 0 0xFF).ppu.lcdc.getLsbD 7 = true ∧ (display ly 0 0xFF).ppu.mode = .oam ∧
      (display ly 0 0xFF).ppu.acc = 0 ∧ (display ly 0 0xFF).ppu.ly < 144) ∧
    (79 < 80 ∧ 80 ≤ 80 ∧ 80 < 240 ∧ 239 < 240 ∧ 240 ≤ 240 ∧ 240 < 444 ∧ 443 < 444 ∧ 444 ≤ 444) := by
  decide

/-- StatusInterruptOnRisingLineOnly: a line that rises, one that stays, one that falls. -/
theorem witness_status_line :
    (∃ p : Ppu, p = { Ppu.fresh with mode := .oam, stat := 0x20 } ∧ p.statLine = false ∧
      (decide (p.mode = .oam) && p.stat.getLsbD 5) = true) ∧
    (∃ p : Ppu, p = { Ppu.fresh with mode := .oam, stat := 0x20, statLine := true } ∧ p.statLine = true) ∧
    ((Ppu.fresh.coin && Ppu.fresh.stat.getLsbD 6) || (decide (Ppu.fresh.mode = .hblank) && Ppu.fresh.stat.getLsbD 3) ||
      (decide (Ppu.fresh.mode = .vblank) && Ppu.fresh.stat.getLsbD 4) ||
      (decide (Ppu.fresh.mode = .oam) && Ppu.fresh.stat.getLsbD 5)) = false :=
  ⟨⟨_, rfl, rfl, by decide⟩, ⟨_, rfl, rfl⟩, by decide⟩

/-- DisplayRegisterAccesses: LCDC on to off, off to on, unchanged both ways; the modes stand in `test_stat_access`. -/
theorem witness_display_switch :
    State.reset.MapSound ∧ State.reset.ppu.lcdc.getLsbD 7 = true ∧ (0x11 : Byte).getLsbD 7 = false ∧
    (t0 []).MapSound ∧ (t0 []).ppu.lcdc.getLsbD 7 = false ∧ (0x80 : Byte).getLsbD 7 = true ∧
    State.reset.ppu.lcdc.getLsbD 7 = (0x80 : Byte).getLsbD 7 ∧ (t0 []).ppu.lcdc.getLsbD 7 = (0x11 : Byte).getLsbD 7 :=
  ⟨rfl, rfl, rfl, map_t0At _ _, rfl, rfl, rfl, rfl⟩

/-- SpriteSelectionKeepsTen: sprites off; twelve on one line, where entry 10 or 8 is not kept. -/
theorem witness_sprites :
    Ppu.fresh.lcdc.getLsbD 1 = false ∧ twelve.lcdc.getLsbD 1 = true ∧
    ((10 : Nat) < 40 ∧ (twelve.oam.read (4 * 10)).toNat ≤ twelve.ly + 16 ∧
      twelve.ly + 16 < (twelve.oam.read (4 * 10)).toNat + 8) ∧
    10 ∉ twelve.selection .table ∧ 10 ∉ twelve.selection .x ∧ 0 ∈ twelve.selection .table := by
  decide

/-- OamCopyCopiesPage: a page that is read, and one whose first byte raises. -/
theorem witness_oam_copy :
    (t0 []).MapSound ∧ (t0 []).MemoriesCanonical ∧
    (∀ i, i < 160 → ∃ b, (t0 []).readByte (BitVec.ofNat 16 (256 * (0xC1 : Byte).toNat + i)) = .ok b) ∧
    readOf (t0 []) (BitVec.ofNat 16 (256 * (0xE0 : Byte).toNat + 0)) = .inr .accessViolation ∧
    (∀ k, k < 0 → ∃ b, (t0 []).readByte (BitVec.ofNat 16 (256 * (0xE0 : Byte).toNat + k)) = .ok b) := by
  refine ⟨map_t0At _ _, canonical_t0, fun i h => ⟨0, ?_⟩, by decide, fun k h => absurd h (Nat.not_lt_zero k)⟩
  have key : ∀ i, i < 160 → readOf (t0 []) (BitVec.ofNat 16 (256 * (0xC1 : Byte).toNat + i)) = .inl 0 := by
    decide +kernel
  exact readOf_ok (key i h)

/-- FrameSequencerTicks: each clause, with counters at 0, 1 and above, and a sweep that is off, that waits, that
overflows, fits, and has shift 0. -/
theorem witness_frame_sequencer :
    (Apu.fresh Config.defaultParams).fsStep < 8 ∧
    (0x00 : Byte).getLsbD 6 = false ∧ (0x40 : Byte).getLsbD 6 = true ∧
    (Apu.fresh Config.defaultParams).ch1.length = 0 ∧ (Apu.fresh Config.defaultParams).ch3.length = 0 ∧
    (⟨true, 0, 1, 0⟩ : Wave).length = 1 ∧ 1 < (⟨true, 0, 256, 0⟩ : Wave).length ∧
    (⟨true, 0, 1, 15, 1, 0⟩ : Noise).length = 1 ∧ 1 < (⟨true, 0, 64, 15, 7, 0⟩ : Noise).length ∧
    (0xF8 : Byte).toNat % 8 = 0 ∧ (0xF1 : Byte).toNat % 8 ≠ 0 ∧
    (⟨true, 0, 1, 15, 1, 0⟩ : Noise).envCounter = 1 ∧ (⟨true, 0, 1, 15, 1, 0⟩ : Noise).volume ≤ 15 ∧
    1 < (⟨true, 0, 2, 15, 2, 0⟩ : Pulse).envCounter ∧ (Apu.fresh Config.defaultParams).sweep.on = false ∧
    (0x07 : Byte).toNat / 16 % 8 = 0 ∧ 1 < (⟨0x400, 2, true⟩ : Sweep).counter ∧
    (∀ nr10 ∈ ([0x10, 0x11, 0x17] : List Byte), (sweeping nr10).sweep.on = true ∧
      (sweeping nr10).regs.nr10.toNat / 16 % 8 ≠ 0 ∧ (sweeping nr10).sweep.counter ≤ 1) ∧
    2047 < 0x400 + 0x400 / 2 ^ ((0x10 : Byte).toNat % 8) ∧ 0x400 + 0x400 / 2 ^ ((0x11 : Byte).toNat % 8) ≤ 2047 ∧
    (0x11 : Byte).toNat % 8 ≠ 0 ∧ 0x3FF + 0x3FF / 2 ^ ((0x10 : Byte).toNat % 8) ≤ 2047 ∧ (0x10 : Byte).toNat % 8 = 0 := by
  decide

/-- SoundRegisterAccesses: the unit off and on, bit 7 set and clear, so each switch of NR52; canonical arrays, and the
ends of wave RAM. -/
theorem witness_sound_registers :
    (t0 []).MemoriesCanonical ∧ (0 : Nat) < 16 ∧ (15 : Nat) < 16 ∧
    (0x80 : Byte).getLsbD 7 = true ∧ (0x7F : Byte).getLsbD 7 = false ∧
    (t0 []).MapSound ∧ (t0 []).apu.regs.nr52.getLsbD 7 = false ∧
    State.reset.MapSound ∧ State.reset.apu.regs.nr52.getLsbD 7 = true :=
  ⟨canonical_t0, by decide, by decide, rfl, rfl, map_t0At _ _, rfl, rfl, rfl⟩

theorem range_apu_reset : State.reset.apu.InRange := by constructor <;> decide

/-- ChannelsAdvanceSampleAndMix: the shortest and R552's period, one cycle below it and at it, the last duty step and
wave position; both ends of the noise periods; the least CLOCK_HZ of the sequencer's clause; the unit on and off. -/
theorem witness_channels :
    0x783 < 2048 ∧ 7 < 8 ∧ 31 < 32 ∧ 0 + 499 < (2048 - 0x783) * 4 ∧ (2048 - 0x783) * 4 ≤ 0 + 500 ∧ 2047 < 2048 ∧
    (2048 - 2047) * 2 ≤ 0 + 2 ∧ 0 + 7 < noisePeriod 0x00 ∧ noisePeriod 0x00 ≤ 0 + 8 ∧
    noisePeriod 0xF7 ≤ 0 + 112 * 32768 ∧ 13 < 14 ∧ State.reset.apu.regs.nr52.getLsbD 7 = true ∧ 512 ≤ 512 := by
  decide

/-- ChannelsAdvanceSampleAndMix, the mix: the unit on and off. -/
theorem witness_mix :
    State.reset.apu.InRange ∧ State.reset.apu.regs.nr52.getLsbD 7 = true ∧
    (t0 []).apu.InRange ∧ (t0 []).apu.regs.nr52.getLsbD 7 = false := by
  refine ⟨range_apu_reset, rfl, ?_, rfl⟩
  constructor <;> decide

/-- ResamplerEmitsAtThreshold: below the threshold, at it, and with enough draws that keep it; each draw, with a rest
below the nudged threshold, and an advance that starts with the rest. -/
theorem witness_resampler :
    (t0 []).apu.resampleThreshold = 95 ∧ 0 + 94 < 95 ∧ 95 ≤ 0 + 95 ∧ (0 + 95) / 95 ≤ 1 ∧
    ({ (t0 []).host with draws := [.keep] } : HostPort).draws = List.replicate 1 .keep ∧
    (95 ≤ 95 + 93 ∧ 95 + 93 - 95 < 94 ∧ 95 + 94 - 95 < 95 ∧ 95 + 95 - 95 < 96) ∧
    (∃ z : ApuIo, z.apu.resampleAcc + 0 = 95 + 94 - 95 ∧ z.apu.resampleThreshold = 94 ∧
      z.host = { (t0 []).host with draws := [] }) := by
  refine ⟨by decide, by decide, by decide, by decide, rfl, by decide,
    ⟨{ (t0 []).apu with resampleAcc := 94, resampleThreshold := 94 }, [], { (t0 []).host with draws := [] }⟩,
    rfl, rfl, rfl⟩

/-- BankSelectWrites: each controller, with the ends of each address range and of each value range. -/
theorem witness_banks :
    (∀ k ∈ ([.null, .mbc1, .mbc2, .mbc3] : List MbcKind), (cartOf k 0).kind = k ∧ (cartOf k 0).romBank ≤ 127 ∧
      (cartOf k 0).bank2 ≤ 3) ∧
    ([0x0000, 0x1FFF].all fun a => decide (a < 0x2000)) = true ∧
    ([0x2000, 0x3FFF].all fun a => decide (0x2000 ≤ a ∧ a < 0x4000)) = true ∧
    ([0x4000, 0x5FFF].all fun a => decide (0x4000 ≤ a ∧ a < 0x6000)) = true ∧
    ([0x6000, 0x7FFF].all fun a => decide (0x6000 ≤ a ∧ a < 0x8000)) = true ∧
    0x3EFF / 256 % 2 = 0 ∧ 0x3FFF / 256 % 2 = 1 ∧
    ([0, 3].all fun v => decide (v ≤ 3)) = true ∧ ([8, 12].all fun v => decide (8 ≤ v ∧ v ≤ 12)) = true ∧
    ([4, 7, 13, 255].all fun v => decide (4 ≤ v ∧ v ≤ 7 ∨ 13 ≤ v)) = true ∧
    ¬ ((cartOf .mbc3 0).latchPrev = 0x00 ∧ (0x01 : Byte) = 0x01) ∧
    (((cartOf .mbc3 0).control 0x6000 0x00).latchPrev = 0x00 ∧ (0x01 : Byte) = 0x01) := by
  decide

/-- ClockCountsSeconds: the ends of the ranges, each carry taken and not, fields out of range, a controller without a
clock, a halted clock, the last cycle below CLOCK_HZ and the one at it. -/
theorem witness_clock :
    (let r : RtcRegs := ⟨59, 59, 23, 0xFF, 0xC1⟩
     r.s.toNat < 60 ∧ r.m.toNat < 60 ∧ r.h.toNat < 24) ∧
    (let r : RtcRegs := ⟨0, 0, 0, 0, 0⟩
     r.s.toNat < 60 ∧ r.m.toNat < 60 ∧ r.h.toNat < 24) ∧
    (59 : Byte).toNat % 64 = 59 ∧ (23 : Byte).toNat % 32 = 23 ∧ (63 : Byte).toNat % 64 ≠ 59 ∧
    (60 : Byte).toNat % 64 ≠ 59 ∧ (24 : Byte).toNat % 32 ≠ 23 ∧ (31 : Byte).toNat % 32 ≠ 23 ∧
    (cartOf .null 0).kind ≠ .mbc3 ∧ (cartOf .mbc3 0).kind = .mbc3 ∧ (0x40 : Byte).getLsbD 6 = true ∧
    (cartOf .mbc3 0).rtc.dh.getLsbD 6 = false ∧ (cartOf .mbc3 0).rtcAcc + 99 < 100 ∧
    (0 : Nat) < 100 ∧ 100 ≤ (cartOf .mbc3 0).rtcAcc + 100 := by
  decide

/-- BusAccessesByAddress: the ends of the first ranges raise, and their neighbours do not. -/
theorem witness_unmapped_low :
    (t0 []).MapSound ∧
    ([0xE000, 0xFDFF, 0xFEA0, 0xFEFF] : List Word).map (readOf (t0 [])) = List.replicate 4 (.inr .accessViolation) ∧
    ([0xDFFF, 0xFE00, 0xFE9F] : List Word).map (readOf (t0 [])) = List.replicate 3 (.inl 0) :=
  ⟨map_t0At _ _, by decide, by decide⟩

/-- BusAccessesByAddress: the ranges among the registers. -/
theorem witness_unmapped_registers :
    ([0xFF01, 0xFF03, 0xFF08, 0xFF0E] : List Word).map (readOf (t0 [])) =
      List.replicate 4 (.inr .accessViolation) ∧
    (t0 []).boot = none ∧
    ([0xFF4C, 0xFF4F, 0xFF50, 0xFF51, 0xFF7F] : List Word).map (readOf (t0 [])) =
      List.replicate 5 (.inr .accessViolation) ∧
    ([0xFF04, 0xFF07, 0xFF0F, 0xFF4B, 0xFF80] : List Word).map (readOf (t0 [])) = List.replicate 5 (.inl 0) :=
  ⟨by decide, rfl, by decide, by decide⟩

/-- BusAccessesByAddress: the gaps of the sound unit. -/
theorem witness_unmapped_sound :
    ([0xFF15, 0xFF1F, 0xFF27, 0xFF2F] : List Word).map (readOf (t0 [])) = List.replicate 4 (.inr .outOfRange) ∧
    ([0xFF14, 0xFF16, 0xFF1E, 0xFF20, 0xFF26, 0xFF30].all fun a =>
      ((t0 []).readByte (BitVec.ofNat 16 a)).toOption.isSome) = true :=
  ⟨by decide, by decide⟩

/-- A machine with a boot ROM of 256 zero bytes, still mapped. -/
def bootState : State := State.resetBoot Config.defaultParams ⟨.null, ⟨[], 0x200000⟩, [], 0⟩ ⟨[], 256⟩

/-- The same after the BOOTOFF write. -/
def bootDone : State :=
  { bootState with bootMapped := false, busMap := busTable defaultUnits true false }

/-- BusAccessesByAddress: IF and IE, the ends of the ROM windows with and without a boot image, and an image too
short for the switchable one. -/
theorem witness_bus_registers_and_rom :
    (0xFF0F : Word).toNat = 0xFF0F ∧ (0xFFFF : Word).toNat = 0xFFFF ∧ (t0 []).boot = none ∧
    bootDone.bootMapped = false ∧ 0x100 ≤ (0x0100 : Word).toNat ∧ (0x7FFF : Word).toNat < 0x8000 ∧
    (0x3FFF : Word).toNat < (t0 []).cart.romLen ∧
    0x4000 * (t0 []).cart.romBank + ((0x7FFF : Word).toNat - 0x4000) < (t0 []).cart.romLen ∧
    (⟨[], 0x14A⟩ : Image).len ≤ (0x014A : Word).toNat := by
  decide

/-- T0 with another controller, whose RAM window is enabled or not. -/
def windowState (c : Cart) (on : Bool) : State := { t0 [] with cart := { c with ramEnable := on } }

/-- BusAccessesByAddress: the RAM window disabled; enabled on each controller, with the last index below the RAM size
and the first one not below; a clock register. -/
theorem witness_bus_ram :
    (windowState (cartOf .mbc1 8192) false).MapSound ∧ (windowState (cartOf .mbc1 8192) false).MemoriesCanonical ∧
    ¬ ((windowState (cartOf .mbc1 8192) false).cart.kind = .null ∨
      (windowState (cartOf .mbc1 8192) false).cart.ramEnable = true) ∧
    (windowState (cartOf .null 8192) false).cart.kind = .null ∧
    (∀ k ∈ ([.mbc1, .mbc2, .mbc3] : List MbcKind), (windowState (cartOf k 8192) true).cart.kind = k ∧
      (windowState (cartOf k 8192) true).cart.ramEnable = true) ∧
    (windowState (cartOf .mbc3 8192) true).cart.rtcSel = .ramBank 0 ∧
    0x2000 * (cartOf .mbc1 8192).ramBank + ((0xBFFF : Word).toNat - 0xA000) < (cartOf .mbc1 8192).cramLen ∧
    (cartOf .mbc1 2048).cramLen ≤ 0x2000 * (cartOf .mbc1 2048).ramBank + ((0xA800 : Word).toNat - 0xA000) ∧
    (0xA1FF : Word).toNat - 0xA000 < 512 ∧ 512 ≤ (0xA200 : Word).toNat - 0xA000 ∧
    ((cartOf .mbc3 0).control 0x4000 0x0C).rtcSel = .reg .dh ∧ ((cartOf .mbc3 0).control 0x4000 0x08).rtcSel = .reg .s :=
  ⟨rfl, ⟨rfl, rfl, rfl, rfl, rfl, rfl, rfl, fun _ h => nomatch h⟩, by decide, rfl, by decide, rfl, by decide,
    by decide, by decide, by decide, by decide, by decide⟩

/-- BootOffUnmapsBootRom: the boot ROM mapped, and unmapped. -/
theorem witness_boot :
    bootState.MapSound ∧ bootState.boot = some ⟨[], 256⟩ ∧ bootState.bootMapped = true ∧
    bootDone.MapSound ∧ bootDone.boot = some ⟨[], 256⟩ ∧ bootDone.bootMapped = false :=
  ⟨rfl, rfl, rfl, rfl, rfl, rfl⟩

/-- Rule R602 where a host's table names the boot units and there is no boot image: nothing answers there. -/
theorem test_boot_units_absent :
    let s := { t0 [] with busMap := .direct 0 0x01FF .bootRom :: .direct 0xFF50 0xFF51 .bootOff :: defaultUnits }
    ([0x0000, 0x0100, 0xFF50, 0xFF51] : List Word).map (readOf s) = List.replicate 4 (.inr .accessViolation) ∧
    ([0x0000, 0x0100, 0xFF50, 0xFF51] : List Word).map (writeFault s · 0) =
      List.replicate 4 (some .accessViolation) := by
  decide

/-- ConstructionReadsHeader: the shortest image that will do and one shorter; a refused type; a refused RAM code;
a valid and an invalid BusMap; a ResetState, and none with and without a boot image. -/
theorem witness_construct :
    0x14A ≤ (⟨[], 0x14A⟩ : Image).len ∧ ¬ 0x14A ≤ (⟨[], 0x149⟩ : Image).len ∧
    built 0x14A 0x00 0x03 = some .null ∧ built 0x149 0x00 0x03 = none ∧ built 0x8000 0x13 0x04 = none ∧
    built 0x8000 0x06 0x04 = some .mbc2 ∧ built 0x8000 0x07 0x00 = none ∧
    (∀ c ∈ (supply familyUnits none).busMap, c.lo ≤ c.hi ∧ c.hi ≤ 65535) ∧
    ¬ (∀ c ∈ (supply [.direct 0 0x10000 .workRam] none).busMap, c.lo ≤ c.hi ∧ c.hi ≤ 65535) ∧
    (supply defaultUnits (some quietReset)).resetState = some quietReset ∧
    (supply defaultUnits none).resetState = none ∧ (supply defaultUnits none).bootImage = none ∧
    { supply defaultUnits none with bootImage := some ⟨[], 256⟩ }.bootImage.isSome = true ∧
    ((construct { supply defaultUnits none with bootImage := some ⟨[], 256⟩ }).toOption.map
      fun s => s.bootMapped) = some true ∧
    ((construct (supply defaultUnits none)).toOption.map fun s => s.regs.pc) = some 0x0100 := by
  refine ⟨by decide, by decide, by decide, by decide, by decide, by decide, by decide, by decide, by decide, rfl, rfl, rfl,
    rfl, by decide, by decide⟩

/-- The four invariants: a step from a state that meets all of them, to a state that has not crashed. -/
theorem witness_invariants :
    (t0 []).FlagNibbleZero ∧ (t0 []).MemoriesCanonical ∧ (t0 []).UnitsInRange ∧ (t0 []).MapSound ∧
    ∃ t, step (t0 []) = .next t ∧ t.Alive := by
  refine ⟨rfl, canonical_t0, ⟨?_, ?_, ?_, ?_, ?_⟩, map_t0At _ _, ?_⟩
  · exact (by decide : (0 : Nat) < 256 ∧ 0 < timaThreshold 0)
  · exact { ly := by decide, col := by decide, vblank := by decide, queueLength := by decide,
            queueEntries := (fun _ h => nomatch h), nextSprite := by decide, whenOff := by decide }
  · constructor <;> decide
  · refine ⟨by decide, fun v h => ?_, by decide, by decide, ⟨by decide, by decide, by decide, by decide⟩,
      ⟨by decide, by decide, by decide, by decide⟩, by decide⟩
    injection h with h
    exact h ▸ Nat.zero_le 3
  · decide
  · obtain ⟨t, h, e⟩ := after_some (s := t0 []) (f := fun t => t.run) (x := .running) (by decide)
    exact ⟨t, h, fun c hc => by rw [e] at hc; cases hc⟩

/-- A boot ROM that begins with LDH (0x50),A. -/
def bootWriter : State := { bootState with boot := some ⟨[(0, 0xE0), (1, 0x50)], 256⟩ }

/-- A mapped boot ROM of NOPs in the machine whose other addresses read 0xFF, an interrupt due, and SP where the entry
pushes to BOOTOFF. -/
def bootPusher : State :=
  { bootState with
    busMap := busTable familyUnits true true, ime := true, ieReg := 0x01, ifReg := 0x01
    regs := { bootState.regs with sp := 0xFF51 } }

/-- StepKeepsMapAndImages: a store and an interrupt entry that unmap the boot ROM, and a step while it is unmapped. -/
theorem witness_unmapping_steps :
    bootWriter.MapIs defaultUnits ∧ bootWriter.bootMapped = true ∧
    after bootWriter (fun t => (t.run, t.bootMapped)) = some (.running, false) ∧
    bootPusher.MapIs familyUnits ∧ bootPusher.bootMapped = true ∧
    after bootPusher (fun t => (t.run, t.bootMapped, t.regs.pc, t.regs.sp)) = some (.running, false, 0x0040, 0xFF4F) ∧
    bootDone.MapIs defaultUnits ∧ bootDone.bootMapped = false ∧
    after bootDone (fun t => (t.run, t.bootMapped)) = some (.running, false) :=
  ⟨rfl, rfl, by decide, rfl, rfl, by decide, rfl, rfl, by decide⟩

end Sys2Proof.Tests
end

section
/-! SUPPORT. Frames over all instructions: moves without a store change no memory and no unit, and only RETI, DI, EI,
HALT and STOP write the master-enable and the suspension. -/

namespace Sys2Proof.Machine

/-! ## Moves without a store -/

/-- The parts of the machine a move without a store can reach, taken from `t`; everything else from `s`. -/
def State.withCoreParts (s t : State) : State :=
  { s with regs := t.regs, cyc := t.cyc, ime := t.ime, halt := t.halt, stop := t.stop, eiPending := t.eiPending }

@[simp] theorem State.readByte_withCoreParts (s t : State) (a : Word) :
    (s.withCoreParts t).readByte a = s.readByte a := rfl

/-- Everything that moves with no address to store to can do. -/
theorem CoreMove.eq_withCoreParts {s t : State} (h : CoreMove [] s t) : t = s.withCoreParts t := by
  induction h with
  | refl => rfl
  | cpu r n _ ih => exact congrArg (fun u => u.withCpu r n) ih
  | write _ _ _ ha _ _ => cases ha
  | modes ime halt stop p _ ih =>
    exact congrArg (fun u => { u with ime := ime, halt := halt, stop := stop, eiPending := p }) ih

/-- A state an instruction leaves and that has not crashed is moves away, which store at `storeAddresses` only. -/
theorem CoreMove.of_exec {i : Instr} {s t : State} (h : exec i s = .next t) (ha : t.Alive) :
    CoreMove (storeAddresses i s) s t := by
  obtain ⟨u, hu, hm⟩ := exec_move i s
  rw [h] at hu
  injection hu with hu
  subst hu
  exact hm.resolve_right fun ⟨c, hc⟩ => ha c hc

/-! ## The master-enable and the suspension -/

/-- The master-enable, the two suspensions, and the enable on its way. -/
def State.modes (s : State) : Bool × Bool × Bool × Option Nat := (s.ime, s.halt, s.stop, s.eiPending)

theorem State.modes_eq_iff {s t : State} :
    t.modes = s.modes ↔ t.ime = s.ime ∧ t.halt = s.halt ∧ t.stop = s.stop ∧ t.eiPending = s.eiPending := by
  simp [State.modes]

@[simp] theorem State.setReg_modes (s : State) (r : Reg8) (v : Byte) : (s.setReg r v).modes = s.modes := by
  simp [State.modes]

@[simp] theorem State.setRr_modes (s : State) (p : PairRR) (v : Word) : (s.setRr p v).modes = s.modes := by
  cases p <;> rfl

@[simp] theorem State.setQq_modes (s : State) (p : PairQQ) (v : Word) : (s.setQq p v).modes = s.modes := by
  cases p <;> rfl

/-- A write leaves the modes alone. -/
theorem State.writeByte_modes {s t : State} {a : Word} {v : Byte} (h : s.writeByte a v = .done () t) :
    t.modes = s.modes := by
  rw [State.writeByte_frame s t a v h]; rfl

theorem State.writeWord_modes {s t : State} {a v : Word} (h : s.writeWord a v = .done () t) :
    t.modes = s.modes := by
  unfold State.writeWord at h
  split at h
  · cases h
  · rename_i h1; exact (State.writeByte_modes h).trans (State.writeByte_modes h1)

theorem State.pushByte_modes {s t : State} {v : Byte} (h : s.pushByte v = .done () t) : t.modes = s.modes :=
  State.writeByte_modes (s := s.setSp (s.regs.sp - 1)) h

theorem State.push16_modes {s t : State} {v : Word} (h : s.push16 v = .done () t) : t.modes = s.modes := by
  unfold State.push16 at h
  split at h
  · cases h
  · rename_i h1; exact (State.pushByte_modes h).trans (State.pushByte_modes h1)

theorem State.popByte_modes {s t : State} {v : Byte} (h : s.popByte = .done v t) : t.modes = s.modes := by
  unfold State.popByte at h
  split at h <;> cases h
  rfl

theorem State.pop16_modes {s t : State} {v : Word} (h : s.pop16 = .done v t) : t.modes = s.modes := by
  unfold State.pop16 at h
  split at h
  · cases h
  · rename_i h1
    split at h
    · cases h
    · rename_i h2; cases h; exact (State.popByte_modes h2).trans (State.popByte_modes h1)

/-- A next state of `x` that has not crashed has the modes of `s`. -/
def KeepsModes (s : State) (x : Result) : Prop := ∀ t, x = .next t → t.Alive → t.modes = s.modes

section
variable {s t : State}

theorem KeepsModes.next (h : t.modes = s.modes) : KeepsModes s (.next t) := fun u hu _ => by
  injection hu with hu
  exact hu ▸ h

theorem KeepsModes.crash (c : Fatal) : KeepsModes s (.next (t.crash c)) := fun u hu ha => by
  injection hu with hu
  exact absurd (hu ▸ t.crash_run c) (ha c)

theorem KeepsModes.retire {len n : Nat} (h : t.modes = s.modes) : KeepsModes s (t.retire len n) := .next h

theorem KeepsModes.jump {a : Word} {n : Nat} (h : t.modes = s.modes) : KeepsModes s (t.jump a n) := .next h

theorem KeepsModes.ite {c : Prop} [Decidable c] {x y : Result} (hx : KeepsModes s x) (hy : KeepsModes s y) :
    KeepsModes s (if c then x else y) := by
  split
  · exact hx
  · exact hy

theorem KeepsModes.load {a : Word} {k : Byte → Result} (hk : ∀ v, KeepsModes s (k v)) :
    KeepsModes s (t.withLoad a k) := by
  unfold State.withLoad
  split
  · exact hk _
  · exact .crash _

theorem KeepsModes.store {a : Word} {v : Byte} {k : State → Result}
    (hk : ∀ u, u.modes = s.modes → KeepsModes s (k u)) : KeepsModes s (s.withStore a v k) := by
  unfold State.withStore
  split
  · exact hk _ (State.writeByte_modes ‹_›)
  · exact .crash _

theorem KeepsModes.storeWord {a v : Word} {k : State → Result}
    (hk : ∀ u, u.modes = s.modes → KeepsModes s (k u)) : KeepsModes s (s.withStoreWord a v k) := by
  unfold State.withStoreWord
  split
  · exact hk _ (State.writeWord_modes ‹_›)
  · exact .crash _

theorem KeepsModes.modify {f : Byte → Byte} {k : Byte → State → Result}
    (hk : ∀ v u, u.modes = s.modes → KeepsModes s (k v u)) : KeepsModes s (s.modifyHl f k) :=
  .load fun v => .store (hk v)

theorem KeepsModes.push {v : Word} {k : State → Result} (hk : ∀ u, u.modes = s.modes → KeepsModes s (k u)) :
    KeepsModes s (s.withPush v k) := by
  unfold State.withPush
  split
  · exact hk _ (State.push16_modes ‹_›)
  · exact .crash _

theorem KeepsModes.pop {k : Word → State → Result} (hk : ∀ v u, u.modes = s.modes → KeepsModes s (k v u)) :
    KeepsModes s (s.withPop k) := by
  unfold State.withPop
  split
  · exact hk _ _ (State.pop16_modes ‹_›)
  · exact .crash _

end

theorem State.call_keepsModes (s : State) (len : Nat) (a : Word) (n : Nat) : KeepsModes s (s.call len a n) :=
  .push fun _ hu => .jump hu

theorem State.return_keepsModes (s : State) (n : Nat) : KeepsModes s (s.return n) :=
  .pop fun _ _ hu => .jump hu

theorem State.shiftReg_keepsModes (s : State) (r : Reg8) (o : Byte × Bool) : KeepsModes s (s.shiftReg r o) :=
  .retire (s.setReg_modes r o.1)

theorem State.shiftHl_keepsModes (s : State) (f : Byte → Byte × Bool) : KeepsModes s (s.shiftHl f) :=
  .modify fun _ _ hu => .retire hu

theorem execPrefixCb_keepsModes (op2 : Byte) (s : State) : KeepsModes s (execPrefixCb op2 s) := by
  unfold execPrefixCb
  dsimp only
  split
  case h_1 | h_2 | h_3 | h_4 | h_5 | h_6 | h_7 | h_8 => exact s.shiftReg_keepsModes _ _
  case h_9 | h_10 | h_11 | h_12 | h_13 | h_14 | h_15 | h_16 => exact s.shiftHl_keepsModes _
  case h_17 => exact .ite (.retire rfl) (.ite (.retire (s.setReg_modes _ _)) (.retire (s.setReg_modes _ _)))
  case h_18 =>
    exact .ite (.load fun _ => .retire rfl)
      (.ite (.modify fun _ _ hu => .retire hu) (.modify fun _ _ hu => .retire hu))

/-- Rules R320, R331 to R334: no other instruction writes the master-enable, the suspensions or the enable on its way.
The cases stand by the shape of the instruction's meaning. -/
theorem exec_keepsModes {i : Instr} (hreti : i ≠ .reti) (hdi : i ≠ .di) (hei : i ≠ .ei) (hhalt : i ≠ .halt)
    (hstop : ∀ n, i ≠ .stop n) (s : State) : KeepsModes s (exec i s) := by
  cases i with
  -- the five that write a mode
  | reti => exact absurd rfl hreti
  | di => exact absurd rfl hdi
  | ei => exact absurd rfl hei
  | halt => exact absurd rfl hhalt
  | stop n => exact absurd rfl (hstop n)
  -- no access, fixed registers and flags
  | nop | rlca | rrca | rla | rra | daa | cpl | scf | ccf | addAN | adcAN | subN | sbcAN | andN | xorN | orN | cpN
  | addSpE | ldHlSpE | ldSpHl | addHlRr | addAR | adcAR | subR | sbcAR | andR | xorR | orR | cpR | bitR =>
    exact .retire rfl
  -- no access, a register or a pair named by the instruction
  | incR r | decR r | ldRN r | ldRR r | resR _ r | setR _ r => exact .retire (s.setReg_modes r _)
  | ldRrNn p | incRr p | decRr p => exact .retire (s.setRr_modes p _)
  | rlcR | rrcR | rlR | rrR | slaR | sraR | swapR | srlR => exact s.shiftReg_keepsModes _ _
  -- one byte read
  | ldABc | ldADe | ldAHli | ldAHld | ldhAN | ldhAC | ldANn | addAHl | adcAHl | subHl | sbcAHl | andHl | xorHl | orHl
  | cpHl | bitHl =>
    exact .load fun _ => .retire rfl
  | ldRHl r => exact .load fun v => .retire (s.setReg_modes r v)
  -- stores
  | ldBcA | ldDeA | ldHliA | ldHldA | ldHlN | ldHlR | ldNnA | ldhNA | ldhCA =>
    exact .store fun _ hu => .retire hu
  | ldNnSp => exact .storeWord fun _ hu => .retire hu
  | incHlMem | decHlMem | resHl | setHl => exact .modify fun _ _ hu => .retire hu
  | rlcHl | rrcHl | rlHl | rrHl | slaHl | sraHl | swapHl | srlHl => exact s.shiftHl_keepsModes _
  -- the stack
  | pushQq => exact .push fun _ hu => .retire hu
  | popAf => exact .pop fun _ _ hu => .retire hu
  | popQq p => exact .pop fun v u hu => .retire ((u.setQq_modes p v).trans hu)
  -- control transfers
  | jpNn | jpHl | jrE => exact .jump rfl
  | jrCcE | jpCcNn => exact .ite (.jump rfl) (.retire rfl)
  | callNn | rstT => exact s.call_keepsModes _ _ _
  | callCcNn => exact .ite (s.call_keepsModes _ _ _) (.retire rfl)
  | ret => exact s.return_keepsModes _
  | retCc => exact .ite (s.return_keepsModes _) (.retire rfl)
  -- PREFIX CB, and the opcodes without a table entry
  | prefixCb op2 => exact execPrefixCb_keepsModes op2 s
  | unrecD3 | unrecDB | unrecDD | unrecE3 | unrecE4 | unrecEB | unrecEC | unrecED | unrecF4 | unrecFC | unrecFD =>
    exact .next rfl

/-- Settles O32: with no address to store to, the moves of `exec_move` reach the core's own parts only
(`CoreMove.eq_withCoreParts`), no read looks at those, and the modes are kept by `exec_keepsModes`. -/
theorem nonStoringInstructionsLeaveMemory : Obligations.NonStoringInstructionsLeaveMemory := by
  unfold Obligations.NonStoringInstructionsLeaveMemory
  intro i s t hstores hexec halive
  have hmove : CoreMove [] s t := hstores ▸ CoreMove.of_exec hexec halive
  have hframe : t = s.withCoreParts t := hmove.eq_withCoreParts
  refine ⟨hframe, fun a => ?_, fun hreti hdi hei hhalt hstop => ?_⟩
  · rw [hframe, State.readByte_withCoreParts]
  · exact State.modes_eq_iff.1 (exec_keepsModes hreti hdi hei hhalt hstop s t hexec halive)

end Sys2Proof.Machine
end

section
/-! SUPPORT. What the clocks leave alone: the display's arrays and LCDC, the wave table, the cartridge's arrays. -/

namespace Sys2Proof.Machine

/-! ## The display -/

/-- What an advance of the display only reads: its two arrays and LCDC. -/
def Ppu.stored (p : Ppu) : Memory × Memory × Byte := (p.vram, p.oam, p.lcdc)

theorem Ppu.stored_eq_iff {p q : Ppu} :
    q.stored = p.stored ↔ q.vram = p.vram ∧ q.oam = p.oam ∧ q.lcdc = p.lcdc := by
  simp [Ppu.stored]

/-- Drawing a sprite writes the two sprite layers only. -/
theorem Ppu.drawSprite_layers (p : Ppu) (i : Nat) :
    ∃ above below, p.drawSprite i = { p with sprAbove := above, sprBelow := below } := by
  unfold Ppu.drawSprite
  dsimp only
  split_ifs <;> exact ⟨_, _, rfl⟩

theorem Ppu.drawSprite_stored (p : Ppu) (i : Nat) : (p.drawSprite i).stored = p.stored := by
  obtain ⟨above, below, h⟩ := p.drawSprite_layers i
  rw [h]
  rfl

theorem Ppu.attemptSprite_stored (p : Ppu) : p.attemptSprite.stored = p.stored := by
  unfold Ppu.attemptSprite
  split
  · exact p.drawSprite_stored _
  · rfl

theorem Ppu.renderColumn_stored (p : Ppu) : p.renderColumn.stored = p.stored := by
  unfold Ppu.renderColumn
  dsimp only
  split_ifs
  · exact p.attemptSprite_stored
  · rfl

theorem Ppu.renderColumns_stored (p : Ppu) : p.renderColumns.stored = p.stored := by
  suffices h : ∀ (n : Nat) (q : Ppu), (Ppu.renderColumn^[n] q).stored = q.stored from h _ p
  intro n
  induction n with
  | zero => exact fun _ => rfl
  | succ n ih => exact fun q => (ih q.renderColumn).trans q.renderColumn_stored

theorem PpuIo.endHblank_stored (x : PpuIo) : x.endHblank.ppu.stored = x.ppu.stored := by
  unfold PpuIo.endHblank
  dsimp only
  split_ifs <;> rfl

theorem PpuIo.endVblankLine_stored (x : PpuIo) : x.endVblankLine.ppu.stored = x.ppu.stored := by
  unfold PpuIo.endVblankLine
  dsimp only
  split_ifs <;> rfl

theorem PpuIo.pass_stored (pick : SpritePick) (x : PpuIo) : (x.pass pick).1.ppu.stored = x.ppu.stored := by
  unfold PpuIo.pass
  cases x.ppu.mode with
  | oam => dsimp only; split_ifs <;> rfl
  | transfer =>
    dsimp only
    split_ifs
    · exact x.ppu.renderColumns_stored
    · exact x.ppu.renderColumns_stored
  | hblank =>
    dsimp only
    split_ifs
    · exact x.endHblank_stored
    · rfl
  | vblank =>
    dsimp only
    split_ifs
    · exact x.endVblankLine_stored
    · rfl

theorem PpuIo.passes_stored (pick : SpritePick) :
    ∀ (fuel : Nat) (x : PpuIo), (PpuIo.passes pick fuel x).ppu.stored = x.ppu.stored
  | 0, _ => rfl
  | fuel + 1, x => by
    unfold PpuIo.passes
    split_ifs
    · exact (PpuIo.passes_stored pick fuel _).trans (x.pass_stored pick)
    · exact x.pass_stored pick

theorem PpuIo.advance_stored (pick : SpritePick) (x : PpuIo) (n : Nat) :
    (x.advance pick n).ppu.stored = x.ppu.stored := by
  unfold PpuIo.advance
  split_ifs
  · exact PpuIo.passes_stored pick _ _
  · rfl

/-! ## The sound unit -/

theorem Apu.lengthTicks_wave (u : Apu) : u.lengthTicks.wave = u.wave := rfl

theorem Apu.envelopeTicks_wave (u : Apu) : u.envelopeTicks.wave = u.wave := rfl

theorem Apu.sweepRecalc_wave (u : Apu) : u.sweepRecalc.wave = u.wave := by
  unfold Apu.sweepRecalc
  dsimp only
  split_ifs <;> rfl

theorem Apu.sweepTick_wave (u : Apu) : u.sweepTick.wave = u.wave := by
  unfold Apu.sweepTick
  dsimp only
  split_ifs
  · exact Apu.sweepRecalc_wave _
  · rfl
  · rfl

theorem Apu.fsTick_wave (u : Apu) : u.fsTick.wave = u.wave := by
  unfold Apu.fsTick
  simp only [apply_ite Apu.wave, Apu.envelopeTicks_wave, Apu.sweepTick_wave, Apu.lengthTicks_wave, ite_self]

theorem Apu.iterate_fsTick_wave : ∀ (n : Nat) (u : Apu), (Apu.fsTick^[n] u).wave = u.wave
  | 0, _ => rfl
  | n + 1, u => (Apu.iterate_fsTick_wave n u.fsTick).trans u.fsTick_wave

theorem Apu.advanceChannels_wave (u : Apu) (clockHz n : Nat) : (u.advanceChannels clockHz n).wave = u.wave := by
  unfold Apu.advanceChannels
  split_ifs
  · exact Apu.iterate_fsTick_wave _ _
  · rfl

/-- The resampler writes its own two fields of the sound unit only. -/
theorem ApuIo.resample_apu : ∀ (fuel : Nat) (x : ApuIo),
    ∃ a t, (ApuIo.resample fuel x).apu = { x.apu with resampleAcc := a, resampleThreshold := t }
  | 0, _ => ⟨_, _, rfl⟩
  | fuel + 1, x => by
    unfold ApuIo.resample
    split_ifs
    · obtain ⟨a, t, h⟩ := ApuIo.resample_apu fuel x.emit
      exact ⟨a, t, h⟩
    · exact ⟨_, _, rfl⟩

/-- An advance of the sound unit is that of its channels, but for the resampler's own two fields. -/
theorem State.advanceClocks_apu (s : State) (n : Nat) :
    ∃ a t, (s.advanceClocks n).apu =
      { s.apu.advanceChannels s.params.clockHz n with resampleAcc := a, resampleThreshold := t } := by
  obtain ⟨a, t, h⟩ := ApuIo.resample_apu _ _
  exact ⟨a, t, h⟩

/-! ## The arrays of the machine -/

theorem Cart.rtcAdvance_arrays (c : Cart) (clockHz n : Nat) :
    (c.rtcAdvance clockHz n).cram = c.cram ∧ (c.rtcAdvance clockHz n).rom = c.rom := by
  unfold Cart.rtcAdvance
  split
  · split_ifs <;> exact ⟨rfl, rfl⟩
  · exact ⟨rfl, rfl⟩

theorem State.advanceClocks_ppu_arrays (s : State) (n : Nat) :
    (s.advanceClocks n).ppu.vram = s.ppu.vram ∧ (s.advanceClocks n).ppu.oam = s.ppu.oam := by
  obtain ⟨hvram, hoam, -⟩ := Ppu.stored_eq_iff.1
    (PpuIo.advance_stored s.params.spritePick (s.timerAdvance n).ppuIo n)
  exact ⟨hvram, hoam⟩

theorem State.advanceClocks_wave (s : State) (n : Nat) : (s.advanceClocks n).apu.wave = s.apu.wave := by
  obtain ⟨a, t, h⟩ := s.advanceClocks_apu n
  rw [h]
  exact s.apu.advanceChannels_wave s.params.clockHz n

theorem State.advanceClocks_cart_arrays (s : State) (n : Nat) :
    (s.advanceClocks n).cart.cram = s.cart.cram ∧ (s.advanceClocks n).cart.rom = s.cart.rom :=
  s.cart.rtcAdvance_arrays s.params.clockHz n

/-- The clocks keep every byte array canonical: they write none. -/
theorem State.MemoriesCanonical.advanceClocks {s : State} (h : s.MemoriesCanonical) (n : Nat) :
    (s.advanceClocks n).MemoriesCanonical where
  wram := h.wram
  hram := h.hram
  vram := (s.advanceClocks_ppu_arrays n).1 ▸ h.vram
  oam := (s.advanceClocks_ppu_arrays n).2 ▸ h.oam
  wave := (s.advanceClocks_wave n) ▸ h.wave
  rom := (s.advanceClocks_cart_arrays n).2 ▸ h.rom
  cram := (s.advanceClocks_cart_arrays n).1 ▸ h.cram
  boot := h.boot

/-- Settles O58: of the parts of a step only the bus writes reach an array, and a write keeps the form. -/
theorem stepKeepsMemoriesCanonical : Obligations.StepKeepsMemoriesCanonical := by
  unfold Obligations.StepKeepsMemoriesCanonical
  have kept : KeptByParts State.MemoriesCanonical :=
    { cpu := fun _ _ _ h => { h with }
      modes := fun _ _ _ _ _ h => { h with }
      flags := fun _ _ h => { h with }
      write := fun _ _ _ _ h hw => State.writeByte_canonical h hw
      clocks := fun _ n h => h.advanceClocks n
      host := fun _ _ h => { h with }
      exited := fun _ h => { h with }
      button := fun _ _ h => { h with } }
  exact fun s t h hs ha => kept.step h hs ha

end Sys2Proof.Machine
end

section
/-! SUPPORT. F's low nibble through an instruction and through the rest of a step: every write of F is one of
`setFlags` and `setF`, which clear it, and what follows an instruction writes PC and SP only. -/

namespace Sys2Proof.Machine

/-! ## Which updates keep the nibble zero -/

theorem State.setFlags_flagNibbleZero (s : State) (z n h c : Bool) : (s.setFlags z n h c).FlagNibbleZero :=
  (packFlags_bits z n h c).2.2.2.2

theorem State.setF_flagNibbleZero (s : State) (v : Byte) : (s.setF v).FlagNibbleZero := by
  show (v &&& 0xF0) &&& 0x0F = 0
  rw [BitVec.and_assoc]
  exact BitVec.and_zero

/-- The nibble is zero wherever F is the same. -/
theorem State.FlagNibbleZero.congr {s t : State} (h : s.FlagNibbleZero) (e : t.regs.f = s.regs.f) :
    t.FlagNibbleZero := by
  unfold State.FlagNibbleZero at h ⊢
  rw [e]
  exact h

theorem State.setReg_flagNibbleZero {s : State} (r : Reg8) (v : Byte) (h : s.FlagNibbleZero) :
    (s.setReg r v).FlagNibbleZero := h.congr (s.setReg_regs_f r v)

theorem State.setRr_flagNibbleZero {s : State} (p : PairRR) (v : Word) (h : s.FlagNibbleZero) :
    (s.setRr p v).FlagNibbleZero := by
  cases p <;> exact h

theorem State.setQq_flagNibbleZero {s : State} (p : PairQQ) (v : Word) (h : s.FlagNibbleZero) :
    (s.setQq p v).FlagNibbleZero := by
  cases p with
  | af => exact State.setF_flagNibbleZero _ _
  | bc | de | hl => exact h

/-! ## Memory and stack accesses leave F alone -/

theorem State.writeByte_f {s t : State} {a : Word} {v : Byte} (h : s.writeByte a v = .done () t) :
    t.regs.f = s.regs.f := congrArg Regs.f (State.writeByte_regs h)

theorem State.writeWord_f {s t : State} {a v : Word} (h : s.writeWord a v = .done () t) :
    t.regs.f = s.regs.f := by
  unfold State.writeWord at h
  split at h
  · cases h
  · rename_i h1; exact (State.writeByte_f h).trans (State.writeByte_f h1)

theorem State.pushByte_f {s t : State} {v : Byte} (h : s.pushByte v = .done () t) : t.regs.f = s.regs.f :=
  State.writeByte_f (s := s.setSp (s.regs.sp - 1)) h

theorem State.push16_f {s t : State} {v : Word} (h : s.push16 v = .done () t) : t.regs.f = s.regs.f := by
  unfold State.push16 at h
  split at h
  · cases h
  · rename_i h1; exact (State.pushByte_f h).trans (State.pushByte_f h1)

theorem State.popByte_f {s t : State} {v : Byte} (h : s.popByte = .done v t) : t.regs.f = s.regs.f := by
  unfold State.popByte at h
  split at h <;> cases h
  rfl

theorem State.pop16_f {s t : State} {v : Word} (h : s.pop16 = .done v t) : t.regs.f = s.regs.f := by
  unfold State.pop16 at h
  split at h
  · cases h
  · rename_i h1
    split at h
    · cases h
    · rename_i h2; cases h; exact (State.popByte_f h2).trans (State.popByte_f h1)

/-! ## Through an instruction -/

/-- A next state of `x` that has not crashed has F's low nibble zero. -/
def LeavesNibbleZero (x : Result) : Prop := ∀ t, x = .next t → t.Alive → t.FlagNibbleZero

namespace LeavesNibbleZero

theorem next {t : State} (h : t.FlagNibbleZero) : LeavesNibbleZero (.next t) := fun u hu _ => by
  injection hu with hu
  exact hu ▸ h

theorem crashed {t : State} {c : Fatal} (h : t.run = .crashed c) : LeavesNibbleZero (.next t) := fun u hu ha => by
  injection hu with hu
  exact absurd (hu ▸ h) (ha c)

theorem retire {t : State} {len n : Nat} (h : t.FlagNibbleZero) : LeavesNibbleZero (t.retire len n) := next h

theorem jump {t : State} {a : Word} {n : Nat} (h : t.FlagNibbleZero) : LeavesNibbleZero (t.jump a n) := next h

/-- An instruction that ends with a write of all flags. -/
theorem flags {t : State} {z n h c : Bool} {len cycles : Nat} :
    LeavesNibbleZero ((t.setFlags z n h c).retire len cycles) := retire (t.setFlags_flagNibbleZero z n h c)

theorem ite {c : Prop} [Decidable c] {x y : Result} (hx : LeavesNibbleZero x) (hy : LeavesNibbleZero y) :
    LeavesNibbleZero (if c then x else y) := by
  split
  · exact hx
  · exact hy

theorem load {s : State} {a : Word} {k : Byte → Result} (hk : ∀ v, LeavesNibbleZero (k v)) :
    LeavesNibbleZero (s.withLoad a k) := by
  unfold State.withLoad
  split
  · exact hk _
  · exact crashed (State.crash_run _ _)

section
variable {s : State} (h : s.FlagNibbleZero)
include h

theorem store {a : Word} {v : Byte} {k : State → Result} (hk : ∀ u, u.FlagNibbleZero → LeavesNibbleZero (k u)) :
    LeavesNibbleZero (s.withStore a v k) := by
  unfold State.withStore
  split
  · exact hk _ (h.congr (State.writeByte_f ‹_›))
  · exact crashed (State.crash_run _ _)

theorem storeWord {a v : Word} {k : State → Result} (hk : ∀ u, u.FlagNibbleZero → LeavesNibbleZero (k u)) :
    LeavesNibbleZero (s.withStoreWord a v k) := by
  unfold State.withStoreWord
  split
  · exact hk _ (h.congr (State.writeWord_f ‹_›))
  · exact crashed (State.crash_run _ _)

theorem modify {f : Byte → Byte} {k : Byte → State → Result}
    (hk : ∀ v u, u.FlagNibbleZero → LeavesNibbleZero (k v u)) : LeavesNibbleZero (s.modifyHl f k) :=
  load fun v => store h (hk v)

theorem push {v : Word} {k : State → Result} (hk : ∀ u, u.FlagNibbleZero → LeavesNibbleZero (k u)) :
    LeavesNibbleZero (s.withPush v k) := by
  unfold State.withPush
  split
  · exact hk _ (h.congr (State.push16_f ‹_›))
  · exact crashed (State.crash_run _ _)

theorem pop {k : Word → State → Result} (hk : ∀ v u, u.FlagNibbleZero → LeavesNibbleZero (k v u)) :
    LeavesNibbleZero (s.withPop k) := by
  unfold State.withPop
  split
  · exact hk _ _ (h.congr (State.pop16_f ‹_›))
  · exact crashed (State.crash_run _ _)

theorem call (len : Nat) (a : Word) (n : Nat) : LeavesNibbleZero (s.call len a n) := push h fun _ => jump

theorem popPc (n : Nat) : LeavesNibbleZero (s.return n) := pop h fun _ _ => jump

theorem shiftHl (f : Byte → Byte × Bool) : LeavesNibbleZero (s.shiftHl f) := modify h fun _ _ _ => flags

theorem prefixCb (op2 : Byte) : LeavesNibbleZero (execPrefixCb op2 s) := by
  unfold execPrefixCb
  dsimp only
  split
  case h_1 | h_2 | h_3 | h_4 | h_5 | h_6 | h_7 | h_8 => exact flags
  case h_9 | h_10 | h_11 | h_12 | h_13 | h_14 | h_15 | h_16 => exact shiftHl h _
  case h_17 =>
    exact ite flags (ite (retire (State.setReg_flagNibbleZero _ _ h)) (retire (State.setReg_flagNibbleZero _ _ h)))
  case h_18 => exact ite (load fun _ => flags) (ite (modify h fun _ _ => retire) (modify h fun _ _ => retire))

end

end LeavesNibbleZero

open LeavesNibbleZero in
/-- Rule R22 through an instruction, by the shape of its meaning. -/
theorem exec_leavesNibbleZero (i : Instr) {s : State} (h : s.FlagNibbleZero) : LeavesNibbleZero (exec i s) := by
  cases i with
  -- all flags written, after a read or without one
  | rlca | rrca | rla | rra | daa | cpl | scf | ccf | addAN | adcAN | subN | sbcAN | andN | xorN | orN | cpN | addSpE
  | ldHlSpE | addHlRr | addAR | adcAR | subR | sbcAR | andR | xorR | orR | cpR | incR | decR | bitR | rlcR | rrcR
  | rlR | rrR | slaR | sraR | swapR | srlR =>
    exact flags
  | addAHl | adcAHl | subHl | sbcAHl | andHl | xorHl | orHl | cpHl | bitHl => exact load fun _ => flags
  -- F left alone
  | nop | halt | stop | di | ldSpHl => exact retire h
  | ei =>
    refine retire (h.congr ?_)
    unfold State.enableInterrupts
    split_ifs <;> rfl
  | ldRN r | ldRR r | resR _ r | setR _ r => exact retire (State.setReg_flagNibbleZero r _ h)
  | ldRrNn p | incRr p | decRr p => exact retire (State.setRr_flagNibbleZero p _ h)
  | ldABc | ldADe | ldAHli | ldAHld | ldhAN | ldhAC | ldANn => exact load fun _ => retire h
  | ldRHl r => exact load fun v => retire (State.setReg_flagNibbleZero r v h)
  -- stores
  | ldBcA | ldDeA | ldHliA | ldHldA | ldHlN | ldHlR | ldNnA | ldhNA | ldhCA =>
    exact store h fun _ hu => retire hu
  | ldNnSp => exact storeWord h fun _ => retire
  | resHl | setHl => exact modify h fun _ _ => retire
  | incHlMem | decHlMem => exact modify h fun _ _ _ => flags
  | rlcHl | rrcHl | rlHl | rrHl | slaHl | sraHl | swapHl | srlHl => exact shiftHl h _
  -- the stack
  | pushQq => exact push h fun _ => retire
  | popAf => exact pop h fun _ _ _ => retire (State.setF_flagNibbleZero _ _)
  | popQq p => exact pop h fun v _ hu => retire (State.setQq_flagNibbleZero p v hu)
  -- control transfers
  | jpNn | jpHl | jrE => exact jump h
  | jrCcE | jpCcNn => exact ite (jump h) (retire h)
  | callNn | rstT => exact call h _ _ _
  | callCcNn => exact ite (call h _ _ _) (retire h)
  | ret => exact popPc h _
  | retCc => exact ite (popPc h _) (retire h)
  | reti => exact pop h fun _ _ hu => jump hu
  -- PREFIX CB, and the opcodes without a table entry
  | prefixCb op2 => exact prefixCb h op2
  | unrecD3 | unrecDB | unrecDD | unrecE3 | unrecE4 | unrecEB | unrecEC | unrecED | unrecF4 | unrecFC | unrecFD =>
    exact crashed rfl

/-! ## Around an instruction -/

@[simp] theorem State.settleEnable_regs (s : State) (b : Option Nat) : (s.settleEnable b).regs = s.regs := by
  unfold State.settleEnable
  split
  · split_ifs <;> rfl
  · rfl

@[simp] theorem State.wake_regs (s : State) : s.wake.regs = s.regs := by
  unfold State.wake
  dsimp only
  split_ifs <;> rfl

@[simp] theorem State.dispatchClocks_regs (s : State) : s.dispatchClocks.regs = s.regs := by
  unfold State.dispatchClocks
  split_ifs <;> rfl

@[simp] theorem State.pollJoypad_regs (s : State) : s.pollJoypad.regs = s.regs := by
  unfold State.pollJoypad
  split <;> rfl

@[simp] theorem State.hostBoundary_regs (s : State) : s.hostBoundary.2.regs = s.regs := by
  unfold State.hostBoundary
  split <;> rfl

theorem State.takeInterrupt_f {s : State} {i : Nat} (ha : (s.takeInterrupt i).Alive) :
    (s.takeInterrupt i).regs.f = s.regs.f := by
  unfold State.takeInterrupt at ha ⊢
  dsimp only at ha ⊢
  split at ha
  · exact absurd (State.crash_run _ _) (ha _)
  · rename_i u hp
    exact (congrArg Regs.f (State.dispatchClocks_regs _)).trans (State.push16_f hp :)

theorem State.serviceInterrupts_f {s : State} (ha : s.serviceInterrupts.Alive) :
    s.serviceInterrupts.regs.f = s.regs.f := by
  unfold State.serviceInterrupts State.dispatch at ha ⊢
  split_ifs at ha ⊢
  · split at ha
    · exact (State.takeInterrupt_f ha).trans (congrArg Regs.f s.wake_regs)
    · exact congrArg Regs.f s.wake_regs
  · exact congrArg Regs.f s.wake_regs

theorem State.endOfStep_f {s : State} {b : Option Nat} (ha : (s.endOfStep b).Alive) :
    (s.endOfStep b).regs.f = s.regs.f := by
  unfold State.endOfStep at ha ⊢
  split at ha
  · rw [State.serviceInterrupts_f ha, State.advanceClocks_regs, State.settleEnable_regs]
  · rfl

/-- What ends a step leaves a crashed state crashed. -/
theorem State.endOfStep_alive {s : State} {b : Option Nat} (ha : (s.endOfStep b).Alive) : s.Alive := by
  intro c hc
  unfold State.endOfStep at ha
  rw [hc] at ha
  exact ha c hc

/-- Settles O57: the instruction of a step leaves the nibble zero, and nothing else of a step writes F. -/
theorem stepKeepsFlagNibbleZero : Obligations.StepKeepsFlagNibbleZero := by
  unfold Obligations.StepKeepsFlagNibbleZero
  intro s t h hs ha
  have hp : s.hostBoundary.2.pollJoypad.FlagNibbleZero := h.congr (by simp)
  obtain ⟨-, ⟨-, rfl⟩ | ⟨-, -, rfl⟩ | ⟨-, -, p, rfl, hc⟩⟩ := step_cases hs
  · exact h.congr (congrArg Regs.f s.hostBoundary_regs)
  · exact h.congr (congrArg Regs.f s.hostBoundary_regs)
  · rcases hc with ⟨-, rfl⟩ | ⟨-, ⟨c, -, rfl⟩ | ⟨i, u, -, hu, rfl⟩⟩
    · exact hp.congr (State.serviceInterrupts_f ha)
    · exact absurd (State.crash_run _ c) (ha c)
    · exact (exec_leavesNibbleZero i hp u hu (State.endOfStep_alive ha)).congr (State.endOfStep_f ha)

end Sys2Proof.Machine
end

section
/-! SUPPORT. The ranges of the timer, the cartridge and the display, through every operation that writes them. -/

namespace Sys2Proof.Machine

/-! ## The timer -/

theorem timaThreshold_pos (tac : Byte) : 0 < timaThreshold tac := by
  unfold timaThreshold
  split <;> decide

/-- Counter ticks leave the rate and both accumulators alone. -/
theorem TimerIo.iterate_tick_inRange : ∀ (n : Nat) (x : TimerIo), x.timer.InRange →
    (TimerIo.tick^[n] x).timer.InRange
  | 0, _, h => h
  | n + 1, x, h => by
    refine TimerIo.iterate_tick_inRange n x.tick ?_
    unfold TimerIo.tick
    split_ifs <;> exact h

theorem TimerIo.advance_inRange (x : TimerIo) (n : Nat) (h : x.timer.InRange) : (x.advance n).timer.InRange := by
  have hdiv : (x.timer.advanceDiv n).InRange := ⟨Nat.mod_lt _ (by decide), h.2⟩
  unfold TimerIo.advance TimerIo.advanceTima
  split_ifs
  · exact TimerIo.iterate_tick_inRange _ _ ⟨hdiv.1, Nat.mod_lt _ (timaThreshold_pos _)⟩
  · exact hdiv

theorem Timer.writeReg_inRange (t : Timer) (r : TimerReg) (v : Byte) (h : t.InRange) : (t.writeReg r v).InRange := by
  cases r with
  | div => exact ⟨Nat.zero_lt_succ _, h.2⟩
  | tima | tma => exact h
  | tac =>
    refine ⟨h.1, ?_⟩
    show (if fieldOf v 0 2 = fieldOf t.tac 0 2 then t.timaAcc else 0) < timaThreshold v
    split_ifs with hrate
    · unfold timaThreshold
      rw [hrate]
      exact h.2
    · exact timaThreshold_pos v

/-! ## The cartridge -/

theorem fieldOf_lt (v : Byte) (lo n : Nat) : fieldOf v lo n < 2 ^ n := Nat.mod_lt _ (Nat.two_pow_pos n)

/-- Masked bits stay clear under a mask that does not reach them. -/
theorem mergeBits_and_eq_zero {mask clear old new : Byte} (hmask : mask &&& clear = 0) (h : old &&& clear = 0) :
    mergeBits mask old new &&& clear = 0 := by
  unfold mergeBits
  apply BitVec.eq_of_getLsbD_eq
  intro i hi
  have hm := congrArg (fun b : Byte => b.getLsbD i) hmask
  have ho := congrArg (fun b : Byte => b.getLsbD i) h
  simp only [BitVec.getLsbD_and, BitVec.getLsbD_or, BitVec.getLsbD_not] at hm ho ⊢
  revert hm ho
  cases mask.getLsbD i <;> cases clear.getLsbD i <;> cases old.getLsbD i <;> simp

theorem and_and_eq_zero {mask clear : Byte} (hmask : mask &&& clear = 0) (v : Byte) : v &&& mask &&& clear = 0 := by
  rw [BitVec.and_assoc, hmask]
  exact BitVec.and_zero

theorem RtcRegs.tickDay_inRange {r : RtcRegs} (h : r.InRange) : r.tickDay.InRange := by
  obtain ⟨hs, hm, hh, hdh⟩ := h
  unfold RtcRegs.tickDay
  dsimp only
  split_ifs
  · refine ⟨hs, hm, hh, ?_⟩
    show (r.dh ||| 0x80) &&& 0xFE &&& 0x3E = 0
    rw [BitVec.and_assoc, BitVec.and_or_distrib_right, show (0xFE : Byte) &&& 0x3E = 0x3E from rfl, hdh]
    rfl
  · exact ⟨hs, hm, hh, mergeBits_and_eq_zero (by decide) hdh⟩

theorem RtcRegs.tickHour_inRange {r : RtcRegs} (h : r.InRange) : r.tickHour.InRange := by
  obtain ⟨hs, hm, hh, hdh⟩ := h
  unfold RtcRegs.tickHour
  dsimp only
  split_ifs
  · exact RtcRegs.tickDay_inRange ⟨hs, hm, BitVec.zero_and, hdh⟩
  · exact ⟨hs, hm, and_and_eq_zero (by decide) _, hdh⟩

theorem RtcRegs.tickMinute_inRange {r : RtcRegs} (h : r.InRange) : r.tickMinute.InRange := by
  obtain ⟨hs, hm, hh, hdh⟩ := h
  unfold RtcRegs.tickMinute
  dsimp only
  split_ifs
  · exact RtcRegs.tickHour_inRange ⟨hs, BitVec.zero_and, hh, hdh⟩
  · exact ⟨hs, and_and_eq_zero (by decide) _, hh, hdh⟩

theorem RtcRegs.tickSecond_inRange {r : RtcRegs} (h : r.InRange) : r.tickSecond.InRange := by
  obtain ⟨hs, hm, hh, hdh⟩ := h
  unfold RtcRegs.tickSecond
  dsimp only
  split_ifs
  · exact RtcRegs.tickMinute_inRange ⟨BitVec.zero_and, hm, hh, hdh⟩
  · exact ⟨and_and_eq_zero (by decide) _, hm, hh, hdh⟩

theorem RtcRegs.iterate_tickSecond_inRange : ∀ (n : Nat) {r : RtcRegs}, r.InRange →
    (RtcRegs.tickSecond^[n] r).InRange
  | 0, _, h => h
  | n + 1, _, h => RtcRegs.iterate_tickSecond_inRange n (RtcRegs.tickSecond_inRange h)

theorem RtcRegs.set_inRange {r : RtcRegs} (q : RtcReg) (v : Byte) (h : r.InRange) : (r.set q v).InRange := by
  obtain ⟨hs, hm, hh, hdh⟩ := h
  cases q with
  | s => exact ⟨and_and_eq_zero (by decide) _, hm, hh, hdh⟩
  | m => exact ⟨hs, and_and_eq_zero (by decide) _, hh, hdh⟩
  | h => exact ⟨hs, hm, and_and_eq_zero (by decide) _, hdh⟩
  | dl => exact ⟨hs, hm, hh, hdh⟩
  | dh => exact ⟨hs, hm, hh, and_and_eq_zero (by decide) _⟩

theorem Cart.rtcAdvance_inRange {c : Cart} {hz : Nat} (h : c.InRange hz) (n : Nat) :
    (c.rtcAdvance hz n).InRange hz := by
  unfold Cart.rtcAdvance
  split
  · split_ifs
    · exact h
    · exact { h with
        live := RtcRegs.iterate_tickSecond_inRange _ h.live
        second := fun hpos => Nat.mod_lt _ hpos }
  · exact h

theorem bankField_lt (v : Byte) {n : Nat} (hn : n ≠ 0) : bankField v n < 2 ^ n := by
  unfold bankField
  split_ifs
  · exact Nat.one_lt_two_pow hn
  · exact fieldOf_lt v 0 n

section
variable {c : Cart} {hz : Nat} (h : c.InRange hz)
include h

/-- Bank numbers within reach, in a controller that fixes none of them. -/
theorem Cart.InRange.withBanks {rom ram bank2 : Nat} (hk : c.kind = .mbc1) (hrom : rom ≤ 127) (hram : ram ≤ 3)
    (hb : bank2 ≤ 3) : ({ c with romBank := rom, ramBank := ram, bank2 := bank2 } : Cart).InRange hz :=
  { h with
    banks := ⟨hrom, hram, hb⟩
    null := fun e => by simp [hk] at e
    mbc2 := fun e => by simp [hk] at e }

theorem Cart.mbc1Banks_inRange (hk : c.kind = .mbc1) : c.mbc1Banks.InRange hz := by
  obtain ⟨hrom, hram, hb⟩ := h.banks
  unfold Cart.mbc1Banks
  split_ifs
  · exact h.withBanks hk (by omega) hb hb
  · exact h.withBanks hk (by omega) (by omega) hb

theorem Cart.mbc1Control_inRange (hk : c.kind = .mbc1) (a : Nat) (v : Byte) : (c.mbc1Control a v).InRange hz := by
  obtain ⟨hrom, hram, hb⟩ := h.banks
  unfold Cart.mbc1Control
  split_ifs
  · exact { h with }
  · have hfield := bankField_lt v (n := 5) (by decide)
    exact Cart.mbc1Banks_inRange (h.withBanks hk (by omega) hram hb) hk
  · have hfield := fieldOf_lt v 0 2
    exact Cart.mbc1Banks_inRange (h.withBanks hk hrom hram (by omega)) hk
  · exact Cart.mbc1Banks_inRange (c := { c with mode := bitOf v 0 }) { h with } hk

theorem Cart.mbc2Control_inRange (hk : c.kind = .mbc2) (a : Nat) (v : Byte) : (c.mbc2Control a v).InRange hz := by
  obtain ⟨-, hram, hb⟩ := h.banks
  have hfield := bankField_lt v (n := 4) (by decide)
  unfold Cart.mbc2Control
  split_ifs
  · exact { h with }
  · exact { h with
      banks := ⟨Nat.le_trans (Nat.le_of_lt hfield) (by decide), hram, hb⟩
      null := fun e => by simp [hk] at e }
  · exact h

/-- A RAM bank of MBC3, selected with its window. -/
theorem Cart.InRange.withRamBank {n : Nat} (hk : c.kind = .mbc3) (hn : n ≤ 3) :
    ({ c with ramBank := n, rtcSel := .ramBank n } : Cart).InRange hz :=
  { h with
    banks := ⟨h.banks.1, hn, h.banks.2.2⟩
    selected := fun v e => by cases e; exact hn
    null := fun e => by simp [hk] at e
    mbc2 := fun e => by simp [hk] at e }

/-- A clock register of MBC3, selected with its window. -/
theorem Cart.InRange.withClock (q : RtcReg) : ({ c with rtcSel := .reg q } : Cart).InRange hz :=
  { h with selected := fun _ e => by cases e }

theorem Cart.mbc3Select_inRange (hk : c.kind = .mbc3) (v : Byte) : (c.mbc3Select v).InRange hz := by
  unfold Cart.mbc3Select
  split
  case h_1 | h_2 | h_3 | h_4 => exact h.withRamBank hk (by decide)
  case h_5 | h_6 | h_7 | h_8 | h_9 => exact h.withClock _
  case h_10 => exact h

theorem Cart.mbc3Control_inRange (hk : c.kind = .mbc3) (a : Nat) (v : Byte) : (c.mbc3Control a v).InRange hz := by
  obtain ⟨hrom, hram, hb⟩ := h.banks
  unfold Cart.mbc3Control
  split_ifs
  · exact { h with }
  · exact { h with
      banks := ⟨Nat.le_of_lt_succ (bankField_lt v (by decide)), hram, hb⟩
      null := fun e => by simp [hk] at e }
  · exact Cart.mbc3Select_inRange h hk v
  · refine { h with snapshot := ?_ }
    show RtcRegs.InRange (if c.latchPrev = 0x00 ∧ v = 0x01 then c.rtc else c.latched)
    split_ifs
    · exact h.live
    · exact h.snapshot

theorem Cart.control_inRange (a : Nat) (v : Byte) : (c.control a v).InRange hz := by
  unfold Cart.control
  split
  · exact h
  · exact Cart.mbc1Control_inRange h ‹_› a v
  · exact Cart.mbc2Control_inRange h ‹_› a v
  · exact Cart.mbc3Control_inRange h ‹_› a v

theorem Cart.writeRam_inRange {d : Cart} {a : Nat} {v : Byte} (hw : c.writeRam a v = .ok d) : d.InRange hz := by
  unfold Cart.writeRam at hw
  split_ifs at hw
  cases hw
  exact { h with }

theorem Cart.writeWindow_inRange {d : Cart} {a : Nat} {v : Byte} (hw : c.writeWindow a v = .ok d) :
    d.InRange hz := by
  unfold Cart.writeWindow at hw
  split at hw
  · split at hw
    · exact Cart.writeRam_inRange h hw
    · exact Cart.writeRam_inRange h hw
    · split at hw
      · cases hw
        exact { h with }
      · cases hw
    · split at hw
      · exact Cart.writeRam_inRange h hw
      · cases hw
        exact { h with live := RtcRegs.set_inRange _ _ h.live }
  · cases hw
    exact h

theorem Cart.writeAt_inRange {d : Cart} {a : Nat} {v : Byte} (hw : c.writeAt a v = .ok d) : d.InRange hz := by
  unfold Cart.writeAt at hw
  split_ifs at hw
  · cases hw
    exact Cart.control_inRange h a v
  · exact Cart.writeWindow_inRange h hw

end

/-! ## The selected sprites -/

theorem Ppu.insertByX_perm (p : Ppu) (i : Nat) : ∀ l : List Nat, (p.insertByX i l).Perm (i :: l)
  | [] => .refl _
  | j :: rest => by
    unfold Ppu.insertByX
    split_ifs
    · exact .refl _
    · exact ((p.insertByX_perm i rest).cons j).trans (.swap i j rest)

/-- Sorting by X changes the order only. -/
theorem Ppu.sortByX_perm (p : Ppu) : ∀ l : List Nat, (p.sortByX l).Perm l
  | [] => .refl _
  | i :: rest => (p.insertByX_perm i _).trans ((p.sortByX_perm rest).cons i)

theorem Ppu.spriteHits_lt (p : Ppu) : ∀ i ∈ p.spriteHits, i < 40 := fun _ hi =>
  List.mem_range.1 (List.mem_filter.1 hi).1

theorem Ppu.selection_length (p : Ppu) (pick : SpritePick) : (p.selection pick).length ≤ 10 := by
  unfold Ppu.selection
  split_ifs
  · cases pick with
    | table => exact (p.sortByX_perm _).length_eq.trans_le (List.length_take_le 10 _)
    | x => exact List.length_take_le 10 _
  · exact Nat.zero_le 10

theorem Ppu.selection_lt (p : Ppu) (pick : SpritePick) : ∀ i ∈ p.selection pick, i < 40 := by
  unfold Ppu.selection
  intro i hi
  split_ifs at hi
  · cases pick with
    | table => exact p.spriteHits_lt i (List.mem_of_mem_take ((p.sortByX_perm _).mem_iff.1 hi))
    | x => exact p.spriteHits_lt i ((p.sortByX_perm _).mem_iff.1 (List.mem_of_mem_take hi))
  · cases hi

/-! ## The display -/

/-- The ranges of the display that hold whether it is on or off. -/
structure Ppu.OnTimeline (p : Ppu) : Prop where
  ly : p.ly < 154
  col : p.col ≤ 160
  vblank : p.mode = .vblank ↔ 144 ≤ p.ly
  queueLength : p.queue.length ≤ 10
  queueEntries : ∀ i ∈ p.queue, i < 40
  nextSprite : p.nextSprite ≤ p.queue.length

theorem Ppu.InRange.onTimeline {p : Ppu} (h : p.InRange) : p.OnTimeline := { h with }

theorem Ppu.OnTimeline.inRange_of_on {p : Ppu} (h : p.OnTimeline) (hon : p.on = true) : p.InRange :=
  { h with whenOff := fun hoff => by simp [hon] at hoff }

namespace Ppu.OnTimeline

/-- Lines shown outside V-blank are the visible ones. -/
theorem visible {p : Ppu} (h : p.OnTimeline) (hm : p.mode ≠ .vblank) : p.ly < 144 :=
  Nat.not_le.1 fun e => hm (h.vblank.2 e)

/-- On a visible line, in any mode but V-blank. -/
theorem onVisibleLine {p : Ppu} (h : p.OnTimeline) {ly : Nat} {m : PpuMode} (hly : ly < 144) (hm : m ≠ .vblank) :
    ({ p with ly := ly, mode := m } : Ppu).OnTimeline :=
  { h with ly := by show ly < 154; omega, vblank := iff_of_false hm (Nat.not_le.2 hly) }

/-- On a line of V-blank. -/
theorem onVblankLine {p : Ppu} (h : p.OnTimeline) {ly : Nat} {m : PpuMode} (hly : 144 ≤ ly) (hend : ly < 154)
    (hm : m = .vblank) : ({ p with ly := ly, mode := m } : Ppu).OnTimeline :=
  { h with ly := hend, vblank := iff_of_true hm hly }

theorem withAcc {p : Ppu} (h : p.OnTimeline) (n : Nat) : ({ p with acc := n } : Ppu).OnTimeline := { h with }

theorem composeLine {p : Ppu} (h : p.OnTimeline) : p.composeLine.OnTimeline := { h with }

theorem checkCoin {p : Ppu} (h : p.OnTimeline) : p.checkCoin.OnTimeline := { h with }

theorem updateStat {x : PpuIo} (h : x.ppu.OnTimeline) : x.updateStat.ppu.OnTimeline := { h with }

theorem attemptSprite {p : Ppu} (h : p.OnTimeline) : p.attemptSprite.OnTimeline := by
  unfold Ppu.attemptSprite
  split
  · rename_i i hi
    obtain ⟨hlt, -⟩ := List.getElem?_eq_some_iff.1 hi
    obtain ⟨above, below, hdraw⟩ := p.drawSprite_layers i
    rw [hdraw]
    exact { h with nextSprite := hlt }
  · exact h

theorem renderColumn {p : Ppu} (h : p.OnTimeline) (hcol : p.col < 160) : p.renderColumn.OnTimeline := by
  unfold Ppu.renderColumn
  dsimp only
  split_ifs
  · exact { h.attemptSprite with col := hcol }
  · exact { h with col := hcol }

end Ppu.OnTimeline

theorem Ppu.renderColumn_col (p : Ppu) : p.renderColumn.col = p.col + 1 := rfl

theorem Ppu.attemptSprite_mode (p : Ppu) : p.attemptSprite.mode = p.mode := by
  unfold Ppu.attemptSprite
  split
  · obtain ⟨above, below, hdraw⟩ := p.drawSprite_layers ‹Nat›
    rw [hdraw]
  · rfl

theorem Ppu.renderColumn_mode (p : Ppu) : p.renderColumn.mode = p.mode := by
  unfold Ppu.renderColumn
  dsimp only
  split_ifs
  · exact p.attemptSprite_mode
  · rfl

/-- Columns rendered within the line stay in range, and pixel transfer goes on. -/
theorem Ppu.OnTimeline.iterate_renderColumn : ∀ (n : Nat) {p : Ppu}, p.OnTimeline → n ≤ 160 - p.col →
    (Ppu.renderColumn^[n] p).OnTimeline ∧ (Ppu.renderColumn^[n] p).mode = p.mode
  | 0, _, h, _ => ⟨h, rfl⟩
  | n + 1, p, h, hn => by
    obtain ⟨hr, hm⟩ := Ppu.OnTimeline.iterate_renderColumn n (h.renderColumn (by omega))
      (by rw [p.renderColumn_col]; omega)
    exact ⟨hr, hm.trans p.renderColumn_mode⟩

namespace Ppu.OnTimeline

theorem beginTransfer {p : Ppu} (h : p.OnTimeline) (hm : p.mode ≠ .vblank) (pick : SpritePick) :
    (p.beginTransfer pick).OnTimeline :=
  { h.onVisibleLine (h.visible hm) (m := .transfer) (by decide) with
    col := Nat.zero_le _
    queueLength := p.selection_length pick
    queueEntries := p.selection_lt pick
    nextSprite := Nat.zero_le _ }

theorem endHblank {x : PpuIo} (h : x.ppu.OnTimeline) (hm : x.ppu.mode ≠ .vblank) :
    x.endHblank.ppu.OnTimeline := by
  have hly := h.visible hm
  have h' := h.withAcc (x.ppu.acc - 204)
  unfold PpuIo.endHblank
  dsimp only
  split_ifs with hlast
  · exact updateStat (h'.onVblankLine (Nat.le_of_eq hlast.symm) (by omega) rfl).checkCoin
  · exact updateStat (h'.onVisibleLine (by omega) (by decide)).checkCoin

theorem endVblankLine {x : PpuIo} (h : x.ppu.OnTimeline) (hm : x.ppu.mode = .vblank) :
    x.endVblankLine.ppu.OnTimeline := by
  have hly := h.vblank.1 hm
  have hend := h.ly
  have h' := h.withAcc (x.ppu.acc - 456)
  unfold PpuIo.endVblankLine
  dsimp only
  split_ifs with hlast
  · exact updateStat (h'.onVisibleLine (by decide) (by decide)).checkCoin
  · exact updateStat (h'.onVblankLine (by omega) (by omega) hm).checkCoin

theorem pass {x : PpuIo} (h : x.ppu.OnTimeline) (pick : SpritePick) : (x.pass pick).1.ppu.OnTimeline := by
  unfold PpuIo.pass
  cases hm : x.ppu.mode with
  | oam =>
    dsimp only
    split_ifs
    · exact updateStat ((h.withAcc _).beginTransfer (by simp [hm]) pick)
    · exact h
  | transfer =>
    obtain ⟨hr, hmode⟩ := h.iterate_renderColumn (min x.ppu.acc (160 - x.ppu.col)) (Nat.min_le_right _ _)
    have hly : x.ppu.renderColumns.ly < 144 := hr.visible (by rw [hmode, hm]; decide)
    dsimp only
    split_ifs
    · exact updateStat (hr.composeLine.onVisibleLine hly (by decide))
    · exact hr
  | hblank =>
    dsimp only
    split_ifs
    · exact h.endHblank (by simp [hm])
    · exact h
  | vblank =>
    dsimp only
    split_ifs
    · exact h.endVblankLine hm
    · exact h

theorem passes (pick : SpritePick) : ∀ (fuel : Nat) {x : PpuIo}, x.ppu.OnTimeline →
    (PpuIo.passes pick fuel x).ppu.OnTimeline
  | 0, _, h => h
  | fuel + 1, x, h => by
    unfold PpuIo.passes
    split_ifs
    · exact passes pick fuel (h.pass pick)
    · exact h.pass pick

end Ppu.OnTimeline

theorem PpuIo.advance_inRange {x : PpuIo} (h : x.ppu.InRange) (pick : SpritePick) (n : Nat) :
    (x.advance pick n).ppu.InRange := by
  obtain ⟨-, -, hlcdc⟩ := Ppu.stored_eq_iff.1 (x.advance_stored pick n)
  by_cases hon : x.ppu.on = true
  · refine Ppu.OnTimeline.inRange_of_on ?_ (by unfold Ppu.on at hon ⊢; rw [hlcdc, hon])
    unfold PpuIo.advance
    rw [if_pos hon]
    exact .passes pick _ (.updateStat (h.onTimeline.withAcc _).checkCoin)
  · unfold PpuIo.advance
    rw [if_neg hon]
    exact h

theorem PpuIo.turnOff_inRange {x : PpuIo} (h : x.ppu.OnTimeline) : x.turnOff.ppu.InRange :=
  { h.onVisibleLine (ly := 0) (m := .hblank) (by decide) (by decide) with
    col := Nat.zero_le _
    queueLength := Nat.zero_le _
    queueEntries := fun _ hi => nomatch hi
    nextSprite := Nat.zero_le _
    whenOff := fun _ => ⟨rfl, rfl, rfl, rfl, rfl, rfl⟩ }

theorem Ppu.OnTimeline.turnOn {p : Ppu} (h : p.OnTimeline) : p.turnOn.OnTimeline :=
  { h.onVisibleLine (ly := 0) (m := .oam) (by decide) (by decide) with col := Nat.zero_le _ }

theorem PpuIo.writeLcdc_inRange {x : PpuIo} (h : x.ppu.InRange) (v : Byte) : (x.writeLcdc v).ppu.InRange := by
  have hnew : ({ x.ppu with lcdc := v } : Ppu).OnTimeline := { h with }
  unfold PpuIo.writeLcdc
  cases hwas : x.ppu.on with
  | true =>
    cases hnow : bitOf v 7 with
    | true => exact hnew.inRange_of_on hnow
    | false => exact PpuIo.turnOff_inRange hnew
  | false =>
    cases hnow : bitOf v 7 with
    | true => exact hnew.turnOn.inRange_of_on hnow
    | false => exact { hnew with whenOff := fun _ => h.whenOff hwas }

theorem PpuIo.writeReg_inRange {x : PpuIo} (h : x.ppu.InRange) (r : PpuReg) (v : Byte) :
    (x.writeReg r v).ppu.InRange := by
  cases r with
  | lcdc => exact PpuIo.writeLcdc_inRange h v
  | ly => exact h
  | stat | scy | scx | lyc | dma | bgp | obp0 | obp1 | wy | wx => exact { h with }

end Sys2Proof.Machine
end

section
/-! SUPPORT. The ranges of the sound unit, channel by channel, and of the whole machine. -/

namespace Sys2Proof.Machine

/-! ## The parts of the sound unit -/

/-- A pulse channel's share of rules R74 and R75. -/
structure Pulse.InRange (c : Pulse) : Prop where
  length : c.length ≤ 64
  volume : c.volume ≤ 15
  envCounter : c.envCounter ≤ 7
  dutyPos : c.dutyPos < 8

/-- The wave channel's share. -/
structure Wave.InRange (c : Wave) : Prop where
  length : c.length ≤ 256
  wavePos : c.wavePos < 32

/-- The noise channel's share. -/
structure Noise.InRange (c : Noise) : Prop where
  length : c.length ≤ 64
  volume : c.volume ≤ 15
  envCounter : c.envCounter ≤ 7

/-- The sweep unit's share. -/
structure Sweep.InRange (w : Sweep) : Prop where
  shadow : w.shadow ≤ 2047
  counter : w.counter ≤ 7

/-- The bits of the registers that are never stored. -/
structure ApuRegs.InRange (r : ApuRegs) : Prop where
  nr14 : r.nr14.getLsbD 7 = false
  nr24 : r.nr24.getLsbD 7 = false
  nr34 : r.nr34.getLsbD 7 = false
  nr44 : r.nr44.getLsbD 7 = false
  nr52 : r.nr52 &&& 0x0F = 0

/-- `Apu.InRange` part by part, with the bound of the frame sequencer's accumulator for this CLOCK_HZ (rule R76). -/
structure Apu.PartsInRange (u : Apu) (clockHz : Nat) : Prop where
  regs : u.regs.InRange
  ch1 : u.ch1.InRange
  sweep : u.sweep.InRange
  ch2 : u.ch2.InRange
  ch3 : u.ch3.InRange
  ch4 : u.ch4.InRange
  fsStep : u.fsStep < 8
  sequencer : 512 ≤ clockHz → u.fsAcc < clockHz / 512

theorem Apu.partsInRange_iff {u : Apu} {clockHz : Nat} :
    u.PartsInRange clockHz ↔ u.InRange ∧ (512 ≤ clockHz → u.fsAcc < clockHz / 512) := by
  constructor
  · intro h
    exact ⟨
      { lengths := ⟨h.ch1.length, h.ch2.length, h.ch3.length, h.ch4.length⟩
        volumes := ⟨h.ch1.volume, h.ch2.volume, h.ch4.volume⟩
        envCounters := ⟨h.ch1.envCounter, h.ch2.envCounter, h.ch4.envCounter⟩
        positions := ⟨h.ch1.dutyPos, h.ch2.dutyPos, h.ch3.wavePos, h.fsStep⟩
        sweep := ⟨h.sweep.shadow, h.sweep.counter⟩
        triggers := ⟨h.regs.nr14, h.regs.nr24, h.regs.nr34, h.regs.nr44⟩
        status := h.regs.nr52 }, h.sequencer⟩
  · intro ⟨h, hsequencer⟩
    obtain ⟨length1, length2, length3, length4⟩ := h.lengths
    obtain ⟨volume1, volume2, volume4⟩ := h.volumes
    obtain ⟨env1, env2, env4⟩ := h.envCounters
    obtain ⟨duty1, duty2, wavePos, fsStep⟩ := h.positions
    obtain ⟨nr14, nr24, nr34, nr44⟩ := h.triggers
    exact
      { regs := ⟨nr14, nr24, nr34, nr44, h.status⟩
        ch1 := ⟨length1, volume1, env1, duty1⟩
        sweep := ⟨h.sweep.1, h.sweep.2⟩
        ch2 := ⟨length2, volume2, env2, duty2⟩
        ch3 := ⟨length3, wavePos⟩
        ch4 := ⟨length4, volume4, env4⟩
        fsStep := fsStep
        sequencer := hsequencer }

/-! ## Counters -/

theorem fieldOf_le_seven (v : Byte) (lo : Nat) : fieldOf v lo 3 ≤ 7 := Nat.le_of_lt_succ (fieldOf_lt v lo 3)

theorem fieldOf_le_fifteen (v : Byte) (lo : Nat) : fieldOf v lo 4 ≤ 15 := Nat.le_of_lt_succ (fieldOf_lt v lo 4)

theorem lengthLoad_le (nrx1 : Byte) : lengthLoad nrx1 ≤ 64 := Nat.sub_le _ _

theorem waveLengthLoad_le (nr31 : Byte) : waveLengthLoad nr31 ≤ 256 := Nat.sub_le _ _

theorem lengthStep_le (enable : Bool) (length : Nat) : (lengthStep enable length).1 ≤ length := by
  unfold lengthStep
  split_ifs
  · exact Nat.sub_le _ _
  · exact Nat.le_refl _

theorem freqOf_le (nrx4 nrx3 : Byte) : freqOf nrx4 nrx3 ≤ 2047 := by
  have hhi := fieldOf_le_seven nrx4 0
  have hlo := nrx3.isLt
  unfold freqOf
  omega

theorem envelopeStep_volume_le (nrx2 : Byte) {volume : Nat} (h : volume ≤ 15) (counter : Nat) :
    (envelopeStep nrx2 volume counter).1 ≤ 15 := by
  unfold envelopeStep
  dsimp only
  split_ifs <;> dsimp only <;> omega

theorem envelopeStep_counter_le (nrx2 : Byte) (volume : Nat) {counter : Nat} (h : counter ≤ 7) :
    (envelopeStep nrx2 volume counter).2 ≤ 7 := by
  unfold envelopeStep
  dsimp only
  have hp := fieldOf_le_seven nrx2 0
  split_ifs <;> dsimp only <;> omega

/-! ## Channels -/

theorem Pulse.trigger_inRange (nrx1 nrx2 : Byte) : (Pulse.trigger nrx1 nrx2).InRange :=
  ⟨lengthLoad_le nrx1, fieldOf_le_fifteen nrx2 4, fieldOf_le_seven nrx2 0, Nat.zero_lt_succ _⟩

theorem Pulse.InRange.lengthTick {c : Pulse} (h : c.InRange) (nrx4 : Byte) : (c.lengthTick nrx4).InRange :=
  { h with length := Nat.le_trans (lengthStep_le _ _) h.length }

theorem Wave.InRange.lengthTick {c : Wave} (h : c.InRange) (nr34 : Byte) : (c.lengthTick nr34).InRange :=
  { h with length := Nat.le_trans (lengthStep_le _ _) h.length }

theorem Noise.InRange.lengthTick {c : Noise} (h : c.InRange) (nr44 : Byte) : (c.lengthTick nr44).InRange :=
  { h with length := Nat.le_trans (lengthStep_le _ _) h.length }

theorem Pulse.InRange.envelopeTick {c : Pulse} (h : c.InRange) (nrx2 : Byte) : (c.envelopeTick nrx2).InRange :=
  { h with
    volume := envelopeStep_volume_le nrx2 h.volume _
    envCounter := envelopeStep_counter_le nrx2 _ h.envCounter }

theorem Noise.InRange.envelopeTick {c : Noise} (h : c.InRange) (nr42 : Byte) : (c.envelopeTick nr42).InRange :=
  { h with
    volume := envelopeStep_volume_le nr42 h.volume _
    envCounter := envelopeStep_counter_le nr42 _ h.envCounter }

theorem Pulse.InRange.advance {c : Pulse} (h : c.InRange) (freq n : Nat) : (c.advance freq n).InRange :=
  { h with dutyPos := Nat.mod_lt _ (by decide) }

theorem Wave.InRange.advance {c : Wave} (h : c.InRange) (freq n : Nat) : (c.advance freq n).InRange :=
  { h with wavePos := Nat.mod_lt _ (by decide) }

theorem Noise.InRange.advance {c : Noise} (h : c.InRange) (nr43 : Byte) (n : Nat) : (c.advance nr43 n).InRange :=
  { h with }

/-! ## Register writes -/

theorem getLsbD_seven_and_0x7F (v : Byte) : (v &&& 0x7F).getLsbD 7 = false := by
  simp

theorem ApuRegs.InRange.store {r : ApuRegs} (h : r.InRange) (q : ApuReg) (v : Byte) : (r.store q v).InRange := by
  cases q with
  | nr14 => exact { h with nr14 := getLsbD_seven_and_0x7F v }
  | nr24 => exact { h with nr24 := getLsbD_seven_and_0x7F v }
  | nr34 => exact { h with nr34 := getLsbD_seven_and_0x7F v }
  | nr44 => exact { h with nr44 := getLsbD_seven_and_0x7F v }
  | nr52 => exact { h with nr52 := mergeBits_and_eq_zero (by decide) h.nr52 }
  | nr10 | nr11 | nr12 | nr13 | nr21 | nr22 | nr23 | nr30 | nr31 | nr32 | nr33 | nr41 | nr42 | nr43 | nr50 | nr51 =>
    exact { h with }

namespace Apu.PartsInRange

section
variable {u w : Apu} {hz : Nat} (h : u.PartsInRange hz)
include h

theorem ite_of (hw : w.PartsInRange hz) {c : Prop} [Decidable c] : (if c then u else w).PartsInRange hz := by
  split_ifs <;> assumption

theorem trigger1 : u.trigger1.PartsInRange hz := by
  unfold Apu.trigger1
  split_ifs
  · exact { h with
      ch1 := Pulse.trigger_inRange _ _
      sweep := ⟨freqOf_le _ _, fieldOf_le_seven _ _⟩ }
  · exact h

theorem trigger2 : u.trigger2.PartsInRange hz := by
  unfold Apu.trigger2
  split_ifs
  · exact { h with ch2 := Pulse.trigger_inRange _ _ }
  · exact h

theorem trigger3 : u.trigger3.PartsInRange hz := by
  unfold Apu.trigger3
  split_ifs
  · exact { h with ch3 := ⟨waveLengthLoad_le _, Nat.zero_lt_succ _⟩ }
  · exact h

theorem trigger4 : u.trigger4.PartsInRange hz := by
  unfold Apu.trigger4
  split_ifs
  · exact { h with ch4 := ⟨lengthLoad_le _, fieldOf_le_fifteen _ _, fieldOf_le_seven _ _⟩ }
  · exact h

theorem switched (was : Bool) : (u.switched was).PartsInRange hz := by
  unfold Apu.switched
  split
  · exact { h with ch1 := { h.ch1 with }, ch2 := { h.ch2 with }, ch3 := { h.ch3 with }, ch4 := { h.ch4 with } }
  · exact { h with fsStep := Nat.zero_lt_succ _, sequencer := fun hq => Nat.div_pos hq (by decide) }
  · exact h

theorem writeReg (q : ApuReg) (v : Byte) : (u.writeReg q v).PartsInRange hz := by
  have hstore : ({ u with regs := u.regs.store q v } : Apu).PartsInRange hz := { h with regs := h.regs.store q v }
  cases q with
  | nr11 => exact { hstore with ch1 := { h.ch1 with length := lengthLoad_le v } }
  | nr21 => exact { hstore with ch2 := { h.ch2 with length := lengthLoad_le v } }
  | nr31 => exact { hstore with ch3 := { h.ch3 with length := waveLengthLoad_le v } }
  | nr41 => exact { hstore with ch4 := { h.ch4 with length := lengthLoad_le v } }
  | nr30 =>
    have hoff : ({ u with
        regs := u.regs.store .nr30 v, ch3 := { u.ch3 with enabled := false } } : Apu).PartsInRange hz :=
      { hstore with ch3 := { h.ch3 with } }
    exact hstore.ite_of hoff
  | nr14 => exact hstore.trigger1.ite_of hstore
  | nr24 => exact hstore.trigger2.ite_of hstore
  | nr34 => exact hstore.trigger3.ite_of hstore
  | nr44 => exact hstore.trigger4.ite_of hstore
  | nr52 => exact hstore.switched _
  | nr10 | nr12 | nr13 | nr22 | nr23 | nr32 | nr33 | nr42 | nr43 | nr50 | nr51 => exact hstore

/-! ## Ticks -/

theorem lengthTicks : u.lengthTicks.PartsInRange hz :=
  { h with
    ch1 := h.ch1.lengthTick _
    ch2 := h.ch2.lengthTick _
    ch3 := h.ch3.lengthTick _
    ch4 := h.ch4.lengthTick _ }

theorem envelopeTicks : u.envelopeTicks.PartsInRange hz :=
  { h with
    ch1 := h.ch1.envelopeTick _
    ch2 := h.ch2.envelopeTick _
    ch4 := h.ch4.envelopeTick _ }

theorem sweepRecalc : u.sweepRecalc.PartsInRange hz := by
  unfold Apu.sweepRecalc
  dsimp only
  split_ifs with hover
  · exact { h with ch1 := { h.ch1 with } }
  · have hnr14 : (mergeBits 0x07 u.regs.nr14
        (BitVec.ofNat 8 (sweepNext u.regs.nr10 u.sweep.shadow / 256))).getLsbD 7 = false := by
      simpa [mergeBits] using h.regs.nr14
    exact { h with
      sweep := ⟨Nat.not_lt.1 hover, h.sweep.counter⟩
      regs := { h.regs with nr14 := hnr14 } }
  · exact h

theorem sweepTick : u.sweepTick.PartsInRange hz := by
  unfold Apu.sweepTick
  dsimp only
  split_ifs
  · exact sweepRecalc { h with sweep := ⟨h.sweep.shadow, fieldOf_le_seven _ _⟩ }
  · exact { h with sweep := ⟨h.sweep.shadow, Nat.le_trans (Nat.sub_le _ _) h.sweep.counter⟩ }
  · exact h

theorem fsTick : u.fsTick.PartsInRange hz := by
  have h1 := ite_of h.lengthTicks h (c := u.fsStep % 2 = 0)
  have h2 := ite_of h1.sweepTick h1 (c := u.fsStep = 2 ∨ u.fsStep = 6)
  have h3 := ite_of h2.envelopeTicks h2 (c := u.fsStep = 7)
  exact { h3 with fsStep := Nat.mod_lt _ (by decide) }

end

theorem iterate_fsTick {hz : Nat} : ∀ (n : Nat) {u : Apu}, u.PartsInRange hz → (Apu.fsTick^[n] u).PartsInRange hz
  | 0, _, h => h
  | n + 1, _, h => iterate_fsTick n h.fsTick

theorem advanceChannels {u : Apu} {hz : Nat} (h : u.PartsInRange hz) (n : Nat) :
    (u.advanceChannels hz n).PartsInRange hz := by
  unfold Apu.advanceChannels
  split_ifs
  · have hfs : ({ u with fsAcc := leftover (u.fsAcc + n) (fsPeriod hz) } : Apu).PartsInRange hz :=
      { h with sequencer := fun hq => Nat.mod_lt _ (Nat.div_pos hq (by decide)) }
    have hw := hfs.iterate_fsTick (crossings (u.fsAcc + n) (fsPeriod hz))
    exact { hw with
      ch1 := hw.ch1.advance _ _
      ch2 := hw.ch2.advance _ _
      ch3 := hw.ch3.advance _ _
      ch4 := hw.ch4.advance _ _ }
  · exact h

theorem writeAt {u w : Apu} {hz : Nat} (h : u.PartsInRange hz) {a : Nat} {v : Byte} (hw : u.writeAt a v = .ok w) :
    w.PartsInRange hz := by
  unfold Apu.writeAt at hw
  split_ifs at hw
  · cases hw
    exact { h with }
  · split at hw
    · cases hw
      exact h.writeReg _ v
    · cases hw

end Apu.PartsInRange

/-! ## The machine -/

namespace State.UnitsInRange

theorem soundParts {s : State} (h : s.UnitsInRange) : s.apu.PartsInRange s.params.clockHz :=
  Apu.partsInRange_iff.2 ⟨h.sound, h.sequencer⟩

theorem advanceClocks {s : State} (h : s.UnitsInRange) (n : Nat) : (s.advanceClocks n).UnitsInRange := by
  have hsound : (s.advanceClocks n).apu.PartsInRange s.params.clockHz := by
    obtain ⟨a, t, hu⟩ := s.advanceClocks_apu n
    rw [hu]
    exact { h.soundParts.advanceChannels n with }
  obtain ⟨hranges, hseq⟩ := Apu.partsInRange_iff.1 hsound
  exact {
    timer := TimerIo.advance_inRange ⟨s.timer, s.ifReg⟩ n h.timer
    display := PpuIo.advance_inRange (x := (s.timerAdvance n).ppuIo) h.display s.params.spritePick n
    sound := hranges
    cart := Cart.rtcAdvance_inRange h.cart n
    sequencer := hseq }

/-- With the display's view replaced by one within the display's ranges. -/
theorem withPpuIo {s : State} (h : s.UnitsInRange) {x : PpuIo} (hx : x.ppu.InRange) :
    (s.withPpuIo x).UnitsInRange := { h with display := hx }

theorem writePpuReg {s t : State} (h : s.UnitsInRange) {r : PpuReg} {v : Byte}
    (hw : s.writePpuReg r v = .done () t) : t.UnitsInRange := by
  have hreg := h.withPpuIo (PpuIo.writeReg_inRange (x := s.ppuIo) h.display r v)
  cases r with
  | dma =>
    obtain ⟨m, rfl⟩ := State.oamCopy_frame v 160 0 _ t hw
    exact { hreg with display := { hreg.display with } }
  | lcdc | stat | scy | scx | ly | lyc | bgp | obp0 | obp1 | wy | wx => cases hw; exact hreg

theorem writePpu {s t : State} (h : s.UnitsInRange) {a : Nat} {v : Byte} (hw : s.writePpu a v = .done () t) :
    t.UnitsInRange := by
  unfold State.writePpu at hw
  split_ifs at hw
  · cases hw
    exact { h with display := { h.display with } }
  · cases hw
    exact { h with display := { h.display with } }
  · split at hw
    · exact h.writePpuReg hw
    · cases hw

/-- Every bus write keeps every unit in range: each goes to one unit, which keeps its own ranges. -/
theorem writeByte {s t : State} (h : s.UnitsInRange) {a : Word} {v : Byte} (hw : s.writeByte a v = .done () t) :
    t.UnitsInRange := by
  unfold State.writeByte at hw
  split at hw
  · cases hw
  · rename_i u k _
    cases u with
    | bootRom => exact absurd hw (s.writeBootRom_refused t _ _)
    | bootOff =>
      obtain ⟨-, -, hw⟩ := State.writeBootUnit_done hw
      unfold State.writeBootOff at hw
      split_ifs at hw <;> cases hw <;> exact { h with }
    | cart =>
      simp only [State.unitWrite] at hw
      split at hw <;> cases hw
      exact { h with cart := Cart.writeAt_inRange h.cart ‹_› }
    | display => exact h.writePpu hw
    | timer =>
      simp only [State.unitWrite] at hw
      split at hw <;> cases hw
      exact { h with timer := Timer.writeReg_inRange _ _ _ h.timer }
    | sound =>
      simp only [State.unitWrite] at hw
      split at hw <;> cases hw
      obtain ⟨hsound, hseq⟩ := Apu.partsInRange_iff.1 (h.soundParts.writeAt ‹_›)
      exact { h with sound := hsound, sequencer := hseq }
    | workRam | highRam | joypad | cpuCore =>
      simp only [State.unitWrite] at hw
      split_ifs at hw <;> cases hw <;> exact { h with }
    | openBus => cases hw; exact h

end State.UnitsInRange

/-- Settles O59: a bus write and the clocks keep every unit within its ranges, and nothing else of a step reaches a
ranged field. -/
theorem stepKeepsUnitsInRange : Obligations.StepKeepsUnitsInRange := by
  unfold Obligations.StepKeepsUnitsInRange
  have kept : KeptByParts State.UnitsInRange :=
    { cpu := fun _ _ _ h => { h with }
      modes := fun _ _ _ _ _ h => { h with }
      flags := fun _ _ h => { h with }
      write := fun _ _ _ _ h hw => h.writeByte hw
      clocks := fun _ n h => h.advanceClocks n
      host := fun _ _ h => { h with }
      exited := fun _ h => { h with }
      button := fun _ _ h => { h with } }
  exact fun s t h hs ha => kept.step h hs ha

end Sys2Proof.Machine
end

section
/-! SUPPORT. The step in halt or stop, the host's flags, and the state after reset. -/

namespace Sys2Proof.Machine

/-! ## The interrupt sources -/

/-- Of a byte masked to the interrupt sources (rule R363) bits 4 to 0 decide. -/
theorem sources_eq_zero_iff (m : Byte) : m &&& 0x1F = 0 ↔ ∀ k, k < 5 → m.getLsbD k = false := by
  revert m
  decide

/-- The wake check's byte (rule R364): the flagged sources, or with WAKE_MASKED_BY_IE the enabled ones of them. -/
def State.wakeSources (s : State) : Byte := if s.params.wakeMaskedByIe then s.ieReg &&& s.ifReg else s.ifReg

theorem State.wake_eq (s : State) :
    s.wake = if s.wakeSources &&& 0x1F = 0 then s
      else { s with halt := false, stop := s.stop && !s.params.stopWakeAnyFlag } := by
  unfold State.wake State.wakeSources
  dsimp only
  cases s.params.wakeMaskedByIe <;> cases s.params.stopWakeAnyFlag <;> simp [State.pending, State.flagged]

theorem State.wakeSources_bit (s : State) (k : Nat) :
    s.wakeSources.getLsbD k = (s.ifReg.getLsbD k && (s.ieReg.getLsbD k || !s.params.wakeMaskedByIe)) := by
  unfold State.wakeSources
  cases s.params.wakeMaskedByIe <;> simp [Bool.and_comm]

theorem State.wake_of_seen {s : State} (h : ∃ k, k < 5 ∧ s.wakeSources.getLsbD k = true) :
    s.wake = { s with halt := false, stop := s.stop && !s.params.stopWakeAnyFlag } := by
  rw [State.wake_eq, if_neg]
  rw [sources_eq_zero_iff]
  obtain ⟨k, hk, hseen⟩ := h
  intro hnone
  rw [hnone k hk] at hseen
  cases hseen

theorem State.wake_of_unseen {s : State} (h : ∀ k, k < 5 → s.wakeSources.getLsbD k = false) : s.wake = s := by
  rw [State.wake_eq, if_pos ((sources_eq_zero_iff _).2 h)]

/-- Without a source pending, or with the master-enable clear, nothing is dispatched (rule R365). -/
theorem State.dispatch_eq_self {s : State}
    (h : s.ime = false ∨ ∀ k, k < 5 → (s.ieReg.getLsbD k && s.ifReg.getLsbD k) = false) : s.dispatch = s := by
  unfold State.dispatch
  rcases h with hime | hnone
  · rw [hime]
    rfl
  · have hp : s.pending = 0 := (sources_eq_zero_iff _).2 fun k hk => by simpa using hnone k hk
    have hl : lowestSource s.pending = none := by rw [hp]; decide
    rw [hl]
    split_ifs <;> rfl

/-- The wake check writes halt and stop only. -/
theorem State.wake_frame (s : State) : ∃ halt stop, s.wake = { s with halt := halt, stop := stop } := by
  rw [State.wake_eq]
  split_ifs
  · exact ⟨s.halt, s.stop, rfl⟩
  · exact ⟨_, _, rfl⟩

/-! ## The step's inputs -/

/-- The inputs of a step write the host port, the buttons, stop and IF. -/
theorem State.afterInput_frame (s : State) : ∃ host joypad stop ifReg,
    s.afterInput = { s with host := host, joypad := joypad, stop := stop, ifReg := ifReg } := by
  unfold State.afterInput State.pollJoypad
  split <;> split <;> exact ⟨_, _, _, _, rfl⟩

/-- Settles O36: an idle step is the clocks, the wake check and the dispatch (`step_pastBoundary`), and the clocks write
no register, no array and no mode. -/
theorem suspendedStepIdlesAndWakes : Obligations.SuspendedStepIdlesAndWakes := by
  unfold Obligations.SuspendedStepIdlesAndWakes
  refine ⟨fun s hs hsuspended => ?_, fun t => ⟨fun h => ?_, fun h => ?_⟩⟩
  · have hstep : step s = .next s.afterInput.idleStep := by
      rw [step_pastBoundary hs, if_pos (by simpa using hsuspended)]
    obtain ⟨host, joypad, stop, ifReg, hp⟩ := s.afterInput_frame
    rw [hp] at hstep ⊢
    refine ⟨_, rfl, hstep, rfl, rfl, rfl, rfl, rfl, rfl, rfl, (State.advanceClocks_ppu_arrays _ _).1,
      (State.advanceClocks_ppu_arrays _ _).2, State.advanceClocks_wave _ _, (State.advanceClocks_cart_arrays _ _).1,
      (State.advanceClocks_cart_arrays _ _).2, rfl, fun hquiet => ?_⟩
    generalize ht : State.advanceClocks _ _ = t at hquiet ⊢
    obtain ⟨halt, stop', hwake⟩ := t.wake_frame
    have hregs : t.regs = s.regs := by rw [← ht]; rfl
    have hime : t.ime = s.ime := by rw [← ht]; rfl
    rw [hwake]
    exact ⟨State.dispatch_eq_self (hquiet.imp_left hime.trans), hregs⟩
  · simp only [← State.wakeSources_bit] at h
    exact State.wake_of_seen h
  · simp only [← State.wakeSources_bit] at h
    exact State.wake_of_unseen h

/-- Settles O37: each clause is a branch of `step`, taken before anything else of it. -/
theorem hostFlagsAndTerminalStates : Obligations.HostFlagsAndTerminalStates := by
  unfold Obligations.HostFlagsAndTerminalStates
  intro s
  refine ⟨fun c hrun => ?_, fun hrun => ?_, fun tick rest hrun hticks => ?_⟩
  · unfold step
    rw [hrun]
  · unfold step
    rw [hrun]
  · have hboundary : s.hostBoundary =
        (tick, { s with host := { s.host with ticks := rest, events := s.host.events ++ tick.arrivals } }) := by
      unfold State.hostBoundary
      rw [hticks]
    refine ⟨fun hstop => ?_, fun hstop hpause => ?_⟩
    · unfold step
      simp [hrun, hboundary, hstop]
    · unfold step
      simp [hrun, hboundary, hstop, hpause]

/-! ## Reset -/

theorem State.reset_unitsInRange : State.reset.UnitsInRange where
  timer := ⟨by decide, by decide⟩
  display :=
    { ly := by decide
      col := by decide
      vblank := iff_of_false (by decide) (by decide)
      queueLength := by decide
      queueEntries := fun _ hi => nomatch hi
      nextSprite := by decide
      whenOff := fun hoff => nomatch hoff }
  sound :=
    { lengths := by decide
      volumes := by decide
      envCounters := by decide
      positions := by decide
      sweep := by decide
      triggers := by decide
      status := by decide }
  cart :=
    { banks := by decide
      selected := fun v hv => by cases hv; decide
      null := fun _ => ⟨rfl, rfl⟩
      mbc2 := fun hk => nomatch hk
      live := by unfold RtcRegs.InRange; decide
      snapshot := by unfold RtcRegs.InRange; decide
      second := fun hpos => hpos }
  sequencer := fun _ => by decide

/-- Settles O56: the base case of the four invariants. -/
theorem resetStateIsSound : Obligations.ResetStateIsSound :=
  ⟨{ flags := by unfold State.FlagNibbleZero; decide
     memories := State.reset_canonical
     units := State.reset_unitsInRange
     map := rfl }, rfl⟩

end Sys2Proof.Machine
end

section
/-! SUPPORT. Bus accesses under the default map: which unit an address reaches, and what the cartridge's windows do. -/

namespace Sys2Proof.Machine

/-! ## Ownership under the default map (rule R100) -/

theorem claimAt_hit {lo hi n : Nat} (u : BusUnit) (m : List BusClaim) (h : lo ≤ n ∧ n ≤ hi) :
    claimAt (.direct lo hi u :: m) n = some (.direct lo hi u) :=
  List.find?_cons_of_pos (decide_eq_true h)

theorem claimAt_miss {lo hi n : Nat} (u : BusUnit) (m : List BusClaim) (h : ¬ (lo ≤ n ∧ n ≤ hi)) :
    claimAt (.direct lo hi u :: m) n = claimAt m n :=
  List.find?_cons_of_neg (mt of_decide_eq_true h)

/-- The unit of the default map at an address, the boot overlay apart. -/
def defaultOwner (n : Nat) : Option BusUnit := (claimAt defaultUnits n).map (·.unit)

theorem defaultOwner_rom {n : Nat} (h : n < 0x8000) : defaultOwner n = some .cart := by
  unfold defaultOwner defaultUnits
  rcases Nat.lt_or_ge n 0x4000 with hlow | hhigh
  · rw [claimAt_hit _ _ (by omega)]; rfl
  · rw [claimAt_miss _ _ (by omega), claimAt_hit _ _ (by omega)]; rfl

theorem defaultOwner_window {n : Nat} (h : 0xA000 ≤ n) (h' : n < 0xC000) : defaultOwner n = some .cart := by
  simp (disch := omega) only [defaultOwner, defaultUnits, claimAt_hit, claimAt_miss]
  rfl

theorem defaultOwner_flags {n : Nat} (h : n = 0xFF0F ∨ n = 0xFFFF) : defaultOwner n = some .cpuCore := by
  rcases h with rfl | rfl <;> rfl

/-- The addresses no unit of the default map owns. -/
def Unmapped (n : Nat) : Prop :=
  0xE000 ≤ n ∧ n ≤ 0xFDFF ∨ 0xFEA0 ≤ n ∧ n ≤ 0xFEFF ∨ 0xFF01 ≤ n ∧ n ≤ 0xFF03 ∨ 0xFF08 ≤ n ∧ n ≤ 0xFF0E ∨
    0xFF4C ≤ n ∧ n ≤ 0xFF7F

theorem defaultOwner_unmapped {n : Nat} (h : Unmapped n) : defaultOwner n = none := by
  unfold Unmapped at h
  simp (disch := omega) only [defaultOwner, defaultUnits, claimAt_miss]
  rfl

/-- The addresses of the sound unit that hold neither a register nor the wave table (rule R103). -/
def SoundGap (n : Nat) : Prop := n = 0xFF15 ∨ n = 0xFF1F ∨ 0xFF27 ≤ n ∧ n ≤ 0xFF2F

theorem defaultOwner_soundGap {n : Nat} (h : SoundGap n) : defaultOwner n = some .sound := by
  unfold SoundGap at h
  simp (disch := omega) only [defaultOwner, defaultUnits, claimAt_hit, claimAt_miss]
  rfl

/-- The boot overlay and the claim of rule R601 over it cover the page at 0 and 0xFF50 only. -/
theorem claimAt_busTable {n : Nat} (m : List BusClaim) (present mapped : Bool)
    (h : present = false ∨ 0x100 ≤ n ∧ n ≠ 0xFF50) : claimAt (busTable m present mapped) n = claimAt m n := by
  rcases h with rfl | ⟨hpage, hoff⟩
  · rfl
  · cases present <;> cases mapped <;>
      simp (disch := omega) only [busTable, bootOverlay, List.cons_append, List.nil_append, claimAt_miss, if_true,
        if_false, Bool.false_eq_true]

section
variable {s : State} (hmap : s.MapSound)
include hmap

theorem State.MapSound.target_eq (a : Word) : s.target a =
    ((claimAt (busTable defaultUnits s.boot.isSome s.bootMapped) a.toNat).map (·.unit)).map fun u => (u, a.toNat) := by
  rw [target_direct (by rw [hmap]; exact busTable_direct _ _), State.owner, hmap]

theorem State.MapSound.target_default {a : Word}
    (h : s.boot = none ∨ 0x100 ≤ a.toNat ∧ a.toNat ≠ 0xFF50) :
    s.target a = (defaultOwner a.toNat).map fun u => (u, a.toNat) := by
  rw [State.MapSound.target_eq hmap, claimAt_busTable _ _ _ (h.imp_left fun hb => by rw [hb]; rfl)]
  rfl

/-- Below 0x8000 an access reaches the bank controller, unless the boot ROM is mapped over the address. -/
theorem State.MapSound.target_rom {a : Word} (h : a.toNat < 0x8000)
    (hboot : s.boot = none ∨ s.bootMapped = false ∨ 0x100 ≤ a.toNat) : s.target a = some (.cart, a.toNat) := by
  by_cases hd : s.boot = none ∨ 0x100 ≤ a.toNat
  · rw [State.MapSound.target_default hmap (hd.imp_right fun hp => ⟨hp, by omega⟩), defaultOwner_rom h]
    rfl
  · obtain ⟨hpresent, hpage⟩ := not_or.1 hd
    have hunmapped : s.bootMapped = false := by tauto
    rw [State.MapSound.target_eq hmap, hunmapped, Option.isSome_iff_ne_none.2 hpresent]
    simp (disch := omega) only [busTable, if_true, if_false, Bool.false_eq_true, claimAt_hit]
    rfl

end

/-! ## Accesses by the unit they reach -/

section
variable {s : State} {a : Word} {n : Nat} {v : Byte}

theorem State.access_unowned (h : s.target a = none) :
    s.readByte a = .error .accessViolation ∧ s.writeByte a v = .fatal .accessViolation s := by
  unfold State.readByte State.writeByte
  rw [h]
  exact ⟨rfl, rfl⟩

theorem apuRegAt_soundGap (h : SoundGap n) : apuRegAt n = none := by
  have hall : ∀ k < 0x40, (k = 0x15 ∨ k = 0x1F ∨ 0x27 ≤ k ∧ k ≤ 0x2F) → apuRegAt (0xFF00 + k) = none := by decide
  unfold SoundGap at h
  have hk := hall (n - 0xFF00) (by omega) (by omega)
  rwa [show 0xFF00 + (n - 0xFF00) = n by omega] at hk

theorem State.access_soundGap (ht : s.target a = some (.sound, n)) (h : SoundGap n) :
    s.readByte a = .error .outOfRange ∧ s.writeByte a v = .fatal .outOfRange s := by
  have hwave : ¬ (0xFF30 ≤ n ∧ n < 0xFF40) := by unfold SoundGap at h; omega
  unfold State.readByte State.writeByte
  rw [ht]
  simp only [State.unitRead, State.unitWrite, Apu.readAt, Apu.writeAt, if_neg hwave, apuRegAt_soundGap h, and_self]

theorem State.readByte_cart (ht : s.target a = some (.cart, n)) : s.readByte a = s.cart.readAt n := by
  unfold State.readByte
  rw [ht]
  rfl

theorem State.writeByte_cart_ok (ht : s.target a = some (.cart, n)) {d : Cart} (hw : s.cart.writeAt n v = .ok d) :
    s.writeByte a v = .done () { s with cart := d } := by
  unfold State.writeByte
  rw [ht]
  simp only [State.unitWrite, hw]

theorem State.writeByte_cart_error (ht : s.target a = some (.cart, n)) {e : Fatal}
    (hw : s.cart.writeAt n v = .error e) : s.writeByte a v = .fatal e s := by
  unfold State.writeByte
  rw [ht]
  simp only [State.unitWrite, hw]

end

/-! ## The cartridge's windows (rules R566 to R568, R579, R585) -/

theorem Cart.ramOn_iff (c : Cart) : c.ramOn = true ↔ c.kind = .null ∨ c.ramEnable = true := by
  unfold Cart.ramOn
  cases c.kind <;> simp

section
variable (c : Cart) {n : Nat}

theorem Cart.readAt_rom (h : n < 0x8000) : c.readAt n = c.rom.readWithin c.romLen (c.romIndex n) := if_pos h

theorem Cart.writeAt_rom (h : n < 0x8000) (v : Byte) : c.writeAt n v = .ok (c.control n v) := if_pos h

section
variable (hlow : 0xA000 ≤ n) (hhigh : n < 0xC000)
include hlow hhigh

theorem Cart.readAt_window : c.readAt n = c.readWindow n := by
  unfold Cart.readAt
  rw [if_neg (by omega), if_pos ⟨hlow, hhigh⟩]

theorem Cart.writeAt_window (v : Byte) : c.writeAt n v = c.writeWindow n v := by
  unfold Cart.writeAt
  rw [if_neg (by omega), if_pos ⟨hlow, hhigh⟩]

end

end

section
variable {c : Cart} {v : Byte}

theorem Cart.window_disabled (n : Nat) (h : ¬ (c.kind = .null ∨ c.ramEnable = true)) :
    c.readWindow n = .ok 0xFF ∧ c.writeWindow n v = .ok c := by
  rw [← Cart.ramOn_iff] at h
  exact ⟨if_neg h, if_neg h⟩

section
variable (n : Nat) (h : c.kind = .null ∨ c.ramEnable = true)
include h

theorem Cart.window_ramBank (hk : c.kind = .null ∨ c.kind = .mbc1 ∨ c.kind = .mbc3 ∧ ∃ b, c.rtcSel = .ramBank b) :
    c.readWindow n = c.readRam n ∧ c.writeWindow n v = c.writeRam n v := by
  unfold Cart.readWindow Cart.writeWindow
  rw [if_pos (c.ramOn_iff.2 h), if_pos (c.ramOn_iff.2 h)]
  rcases hk with hk | hk | ⟨hk, b, hb⟩
  · rw [hk]; exact ⟨rfl, rfl⟩
  · rw [hk]; exact ⟨rfl, rfl⟩
  · rw [hk, hb]; exact ⟨rfl, rfl⟩

theorem Cart.window_mbc2 (hk : c.kind = .mbc2) :
    c.readWindow n = (if n - 0xA000 < 512 then .ok (0xF0 ||| c.cram.read (n - 0xA000)) else .error .outOfRange) ∧
    c.writeWindow n v =
      (if n - 0xA000 < 512 then .ok { c with cram := c.cram.write (n - 0xA000) (v &&& 0x0F) }
        else .error .outOfRange) := by
  unfold Cart.readWindow Cart.writeWindow
  rw [if_pos (c.ramOn_iff.2 h), if_pos (c.ramOn_iff.2 h), hk]
  exact ⟨rfl, rfl⟩

theorem Cart.window_clock (hk : c.kind = .mbc3) {q : RtcReg} (hq : c.rtcSel = .reg q) :
    c.readWindow n = .ok (c.latched.get q) ∧ c.writeWindow n v = .ok { c with rtc := c.rtc.set q v } := by
  unfold Cart.readWindow Cart.writeWindow
  rw [if_pos (c.ramOn_iff.2 h), if_pos (c.ramOn_iff.2 h), hk, hq]
  exact ⟨rfl, rfl⟩

end

end

/-- Every read after a write. -/
theorem Memory.read_write (m : Memory) (h : m.wf = true) (i k : Nat) (v : Byte) :
    (m.write i v).read k = if k = i then v else m.read k := by
  split_ifs with hk
  · subst hk
    exact Memory.read_write_same k v m h
  · exact Memory.read_write_other hk v m

/-! ## The default map's accesses -/

section
variable {s : State} {a : Word} {v : Byte}

/-- IF and IE are whole bytes (rules R33, R34). -/
theorem State.access_if (ht : s.target a = some (.cpuCore, 0xFF0F)) :
    s.readByte a = .ok s.ifReg ∧ s.writeByte a v = .done () { s with ifReg := v } := by
  unfold State.readByte State.writeByte
  rw [ht]
  exact ⟨rfl, rfl⟩

theorem State.access_ie (ht : s.target a = some (.cpuCore, 0xFFFF)) :
    s.readByte a = .ok s.ieReg ∧ s.writeByte a v = .done () { s with ieReg := v } := by
  unfold State.readByte State.writeByte
  rw [ht]
  exact ⟨rfl, rfl⟩

/-- A cell of cartridge RAM behind a window that has it or not: read and written at one index, or an error. -/
theorem State.access_cram {n i : Nat} {x y : Byte} {inside : Prop} [Decidable inside]
    (ht : s.target a = some (.cart, n))
    (hr : s.readByte a = if inside then .ok x else .error .outOfRange)
    (hw : s.cart.writeAt n v =
      if inside then .ok { s.cart with cram := s.cart.cram.write i y } else .error .outOfRange) :
    (inside → s.readByte a = .ok x ∧
      (s.MemoriesCanonical → ∃ m : Memory, (∀ k, m.read k = if k = i then y else s.cart.cram.read k) ∧
        s.writeByte a v = .done () { s with cart := { s.cart with cram := m } })) ∧
    (¬ inside → s.readByte a = .error .outOfRange ∧ s.writeByte a v = .fatal .outOfRange s) := by
  refine ⟨fun hin => ⟨hr.trans (if_pos hin), fun hcanonical => ?_⟩, fun hout => ⟨hr.trans (if_neg hout), ?_⟩⟩
  · exact ⟨_, fun k => s.cart.cram.read_write hcanonical.cram i k y,
      State.writeByte_cart_ok ht (hw.trans (if_pos hin))⟩
  · exact State.writeByte_cart_error ht (hw.trans (if_neg hout))

end

/-- Settles O53: the unit the address reaches under the default map, and that unit's own answer. -/
theorem busAccessesByAddress : Obligations.BusAccessesByAddress := by
  unfold Obligations.BusAccessesByAddress
  intro s a v hmap
  refine ⟨fun h => ?_, fun h => ?_, fun h => ?_, fun h => ?_, fun h hboot => ?_, fun hlow hhigh => ?_⟩
  · have hunmapped : Unmapped a.toNat := by unfold Unmapped; omega
    have hoverlay : s.boot = none ∨ 0x100 ≤ a.toNat ∧ a.toNat ≠ 0xFF50 := by
      by_cases hboot : s.boot = none
      · exact .inl hboot
      · simp only [hboot, and_false, or_false] at h
        exact .inr (by omega)
    have ht := hmap.target_default hoverlay
    rw [defaultOwner_unmapped hunmapped] at ht
    exact State.access_unowned ht
  · have ht := hmap.target_default (a := a) (.inr (by omega))
    rw [defaultOwner_soundGap h] at ht
    exact State.access_soundGap ht h
  · have ht := hmap.target_default (a := a) (.inr (by omega))
    rw [defaultOwner_flags (.inl h), h] at ht
    exact State.access_if ht
  · have ht := hmap.target_default (a := a) (.inr (by omega))
    rw [defaultOwner_flags (.inr h), h] at ht
    exact State.access_ie ht
  · have ht := hmap.target_rom h hboot
    rw [State.readByte_cart ht, Cart.readAt_rom _ h]
    exact ⟨fun hin => if_pos hin, fun hout => if_neg (Nat.not_lt.2 hout),
      State.writeByte_cart_ok ht (s.cart.writeAt_rom h v)⟩
  · have ht := hmap.target_default (a := a) (.inr (by omega))
    rw [defaultOwner_window hlow hhigh] at ht
    have hread := (State.readByte_cart ht).trans (s.cart.readAt_window hlow hhigh)
    have hwrite := s.cart.writeAt_window hlow hhigh v
    refine ⟨fun hoff => ?_, fun hon hbank => ?_, fun hon hmbc2 => ?_, fun hon hmbc3 => ?_⟩
    · obtain ⟨hr, hw⟩ := Cart.window_disabled (v := v) a.toNat hoff
      exact ⟨hread.trans hr, State.writeByte_cart_ok ht (hwrite.trans hw)⟩
    · obtain ⟨hr, hw⟩ := Cart.window_ramBank (v := v) a.toNat hon hbank
      obtain ⟨hinside, houtside⟩ := State.access_cram ht (hread.trans hr) (hwrite.trans hw)
      exact ⟨hinside, fun hout => houtside (Nat.not_lt.2 hout)⟩
    · obtain ⟨hr, hw⟩ := Cart.window_mbc2 (v := v) a.toNat hon hmbc2
      obtain ⟨hinside, houtside⟩ := State.access_cram ht (hread.trans hr) (hwrite.trans hw)
      exact ⟨hinside, fun hout => houtside (Nat.not_lt.2 hout)⟩
    · have clock : ∀ q, s.cart.rtcSel = .reg q → s.readByte a = .ok (s.cart.latched.get q) ∧
          s.writeByte a v = .done () { s with cart := { s.cart with rtc := s.cart.rtc.set q v } } := fun q hq => by
        obtain ⟨hr, hw⟩ := Cart.window_clock (v := v) a.toNat hon hmbc3 hq
        exact ⟨hread.trans hr, State.writeByte_cart_ok ht (hwrite.trans hw)⟩
      exact ⟨clock .s, clock .m, clock .h, clock .dl, clock .dh⟩

end Sys2Proof.Machine
end

section
/-! SUPPORT. What the bus and the images hold through every part of a step: the map changes by the BOOTOFF write only,
and no part of a step writes the parameters, an image or the controller kind. -/

namespace Sys2Proof.Machine

/-! ## The cartridge's images -/

/-- What a cartridge is loaded with and no access changes: the controller kind, the ROM and the size of the RAM. -/
def Cart.fixedParts (c : Cart) : MbcKind × Memory × Nat × Nat := (c.kind, c.rom, c.romLen, c.cramLen)

theorem Cart.fixedParts_eq_iff {c d : Cart} : d.fixedParts = c.fixedParts ↔
    d.kind = c.kind ∧ d.rom = c.rom ∧ d.romLen = c.romLen ∧ d.cramLen = c.cramLen := by
  simp [Cart.fixedParts]

theorem Cart.mbc1Banks_fixedParts (c : Cart) : c.mbc1Banks.fixedParts = c.fixedParts := by
  unfold Cart.mbc1Banks
  split_ifs <;> rfl

theorem Cart.mbc1Control_fixedParts (c : Cart) (a : Nat) (v : Byte) :
    (c.mbc1Control a v).fixedParts = c.fixedParts := by
  unfold Cart.mbc1Control
  split_ifs
  · rfl
  · exact Cart.mbc1Banks_fixedParts _
  · exact Cart.mbc1Banks_fixedParts _
  · exact Cart.mbc1Banks_fixedParts _

theorem Cart.mbc2Control_fixedParts (c : Cart) (a : Nat) (v : Byte) :
    (c.mbc2Control a v).fixedParts = c.fixedParts := by
  unfold Cart.mbc2Control
  split_ifs <;> rfl

theorem Cart.mbc3Select_fixedParts (c : Cart) (v : Byte) : (c.mbc3Select v).fixedParts = c.fixedParts := by
  unfold Cart.mbc3Select
  split <;> rfl

theorem Cart.mbc3Control_fixedParts (c : Cart) (a : Nat) (v : Byte) :
    (c.mbc3Control a v).fixedParts = c.fixedParts := by
  unfold Cart.mbc3Control
  split_ifs
  · rfl
  · rfl
  · exact c.mbc3Select_fixedParts v
  · rfl

/-- Rule R560: a write below 0x8000 reconfigures the banks only. -/
theorem Cart.control_fixedParts (c : Cart) (a : Nat) (v : Byte) : (c.control a v).fixedParts = c.fixedParts := by
  unfold Cart.control
  split
  · rfl
  · exact c.mbc1Control_fixedParts a v
  · exact c.mbc2Control_fixedParts a v
  · exact c.mbc3Control_fixedParts a v

theorem Cart.writeRam_fixedParts {c d : Cart} {a : Nat} {v : Byte} (h : c.writeRam a v = .ok d) :
    d.fixedParts = c.fixedParts := by
  unfold Cart.writeRam at h
  split at h <;> cases h
  rfl

theorem Cart.writeWindow_fixedParts {c d : Cart} {a : Nat} {v : Byte} (h : c.writeWindow a v = .ok d) :
    d.fixedParts = c.fixedParts := by
  unfold Cart.writeWindow at h
  split at h
  · split at h
    · exact Cart.writeRam_fixedParts h
    · exact Cart.writeRam_fixedParts h
    · split at h <;> cases h
      rfl
    · split at h
      · exact Cart.writeRam_fixedParts h
      · cases h; rfl
  · cases h; rfl

theorem Cart.writeAt_fixedParts {c d : Cart} {a : Nat} {v : Byte} (h : c.writeAt a v = .ok d) :
    d.fixedParts = c.fixedParts := by
  unfold Cart.writeAt at h
  split_ifs at h
  · cases h; exact c.control_fixedParts a v
  · exact Cart.writeWindow_fixedParts h

theorem Cart.rtcAdvance_fixedParts (c : Cart) (clockHz n : Nat) :
    (c.rtcAdvance clockHz n).fixedParts = c.fixedParts := by
  unfold Cart.rtcAdvance
  split
  · split_ifs <;> rfl
  · rfl

/-- The cartridge changes by a write that reaches it only. -/
theorem State.writeByte_cart {s t : State} {a : Word} {v : Byte} (h : s.writeByte a v = .done () t) :
    t.cart = s.cart ∨ ∃ n, s.cart.writeAt n v = .ok t.cart := by
  unfold State.writeByte at h
  split at h
  · cases h
  · rename_i u n _
    cases u with
    | cart =>
      simp only [State.unitWrite] at h
      split at h <;> cases h
      exact .inr ⟨n, ‹_›⟩
    | bootRom => exact absurd h (s.writeBootRom_refused t _ _)
    | bootOff =>
      obtain ⟨-, -, h⟩ := State.writeBootUnit_done h
      unfold State.writeBootOff at h
      split_ifs at h <;> cases h <;> exact .inl rfl
    | display =>
      simp only [State.unitWrite, State.writePpu] at h
      split_ifs at h
      · cases h; exact .inl rfl
      · cases h; exact .inl rfl
      · split at h
        · rw [State.writePpuReg_frame s t _ v h]; exact .inl rfl
        · cases h
    | workRam | highRam | joypad | cpuCore =>
      simp only [State.unitWrite] at h
      split_ifs at h <;> cases h <;> exact .inl rfl
    | timer | sound =>
      simp only [State.unitWrite] at h
      split at h <;> cases h
      exact .inl rfl
    | openBus => cases h; exact .inl rfl

theorem State.writeByte_cart_fixedParts {s t : State} {a : Word} {v : Byte} (h : s.writeByte a v = .done () t) :
    t.cart.fixedParts = s.cart.fixedParts := by
  rcases State.writeByte_cart h with hc | ⟨n, hc⟩
  · rw [hc]
  · exact Cart.writeAt_fixedParts hc

/-! ## The map and the overlay -/

/-- Only the map decides where an access goes. -/
theorem State.target_congr {s t : State} (h : t.busMap = s.busMap) (a : Word) : t.target a = s.target a := by
  unfold State.target
  rw [h]

/-- Rule R601: the BOOTOFF write makes of the table with the boot ROM mapped the one with it unmapped. -/
theorem busTable_unmapped (m : List BusClaim) :
    busTable m true false = .direct 0x0000 0x00FF .cart :: busTable m true true := rfl

theorem State.writeByte_mapIs {m : List BusClaim} {s t : State} {a : Word} {v : Byte} (h : s.MapIs m)
    (hw : s.writeByte a v = .done () t) : t.MapIs m := by
  unfold State.MapIs at h ⊢
  rcases State.writeByte_overlay hw with ⟨hmap, hmapped⟩ | ⟨hboot, hmapped, -, rfl⟩
  · have hboot : t.boot = s.boot := by rw [State.writeByte_frame s t a v hw]; rfl
    rw [hmap, hmapped, hboot, h]
  · rw [hboot, hmapped] at h
    dsimp only
    rw [hboot, h, busTable_unmapped]

/-- Rule R601: the BOOTOFF write unmaps the boot ROM, and no write maps it. -/
theorem State.writeByte_bootMapped {s t : State} {a : Word} {v : Byte} (h : s.bootMapped = false)
    (hw : s.writeByte a v = .done () t) : t.bootMapped = false := by
  rcases State.writeByte_overlay hw with ⟨-, hmapped⟩ | ⟨-, -, -, rfl⟩
  · rw [hmapped, h]
  · rfl

/-- Everything `t` has in common with the state `s` of a machine built with the BusMap `m`. -/
structure State.SameMachine (m : List BusClaim) (s t : State) : Prop where
  map : t.MapIs m
  params : t.params = s.params
  boot : t.boot = s.boot
  cart : t.cart.fixedParts = s.cart.fixedParts
  unmapped : s.bootMapped = false → t.bootMapped = false

/-- Every part of a step leaves the machine the same one. -/
theorem State.SameMachine.kept (m : List BusClaim) (s : State) : KeptByParts (State.SameMachine m s) where
  cpu _ _ _ h := { h with }
  modes _ _ _ _ _ h := { h with }
  flags _ _ h := { h with }
  write t u a v h hw :=
    have hframe := State.writeByte_frame t u a v hw
    { map := State.writeByte_mapIs h.map hw
      params := by rw [hframe]; exact h.params
      boot := by rw [hframe]; exact h.boot
      cart := (State.writeByte_cart_fixedParts hw).trans h.cart
      unmapped := fun hs => State.writeByte_bootMapped (h.unmapped hs) hw }
  clocks t n h := { h with cart := (t.cart.rtcAdvance_fixedParts t.params.clockHz n).trans h.cart }
  host _ _ h := { h with }
  exited _ h := { h with }
  button _ _ h := { h with }

/-! ## Where a step can unmap the boot ROM -/

/-- The map, the boot image and whether it is mapped. -/
def State.overlay (s : State) : List BusClaim × Option Image × Bool := (s.busMap, s.boot, s.bootMapped)

theorem State.overlay_eq_iff {s t : State} :
    t.overlay = s.overlay ↔ t.busMap = s.busMap ∧ t.boot = s.boot ∧ t.bootMapped = s.bootMapped := by
  simp [State.overlay]

theorem State.hostBoundary_overlay (s : State) : s.hostBoundary.2.overlay = s.overlay := by
  unfold State.hostBoundary
  split <;> rfl

theorem State.pollJoypad_overlay (s : State) : s.pollJoypad.overlay = s.overlay := by
  unfold State.pollJoypad
  split <;> rfl

/-- The inputs of a step leave the overlay alone. -/
theorem State.input_overlay (s : State) : s.hostBoundary.2.pollJoypad.overlay = s.overlay :=
  (State.pollJoypad_overlay _).trans s.hostBoundary_overlay

theorem State.settleEnable_overlay (s : State) (before : Option Nat) :
    (s.settleEnable before).overlay = s.overlay := by
  unfold State.settleEnable
  split
  · split_ifs <;> rfl
  · rfl

theorem State.wake_overlay (s : State) : s.wake.overlay = s.overlay := by
  obtain ⟨halt, stop, h⟩ := s.wake_frame
  rw [h]
  rfl

theorem State.dispatchClocks_overlay (s : State) : s.dispatchClocks.overlay = s.overlay := by
  unfold State.dispatchClocks
  split_ifs <;> rfl

/-- One of `A` reaches BOOTOFF, from a state with a boot image. -/
def State.ReachesBootOff (s : State) (A : List Word) : Prop :=
  s.boot.isSome = true ∧ ∃ a ∈ A, s.target a = some (.bootOff, 0xFF50)

theorem State.ReachesBootOff.congr {s t : State} {A : List Word} (h : t.ReachesBootOff A)
    (e : t.overlay = s.overlay) : s.ReachesBootOff A := by
  obtain ⟨hmap, hboot, -⟩ := State.overlay_eq_iff.1 e
  obtain ⟨hsome, a, ha, htarget⟩ := h
  exact ⟨hboot ▸ hsome, a, ha, State.target_congr hmap a ▸ htarget⟩

/-- Moves that unmap the boot ROM store to an address that reaches BOOTOFF; others leave the overlay alone. -/
theorem CoreMove.overlay_cases {A : List Word} {s t : State} (h : CoreMove A s t) :
    t.overlay = s.overlay ∨ s.ReachesBootOff A := by
  obtain ⟨hboot, ⟨hmap, hmapped⟩ | ⟨hsome, -, -, a, ha, htarget⟩⟩ := h.overlay
  · exact .inl (State.overlay_eq_iff.2 ⟨hmap, hboot, hmapped⟩)
  · exact .inr ⟨hsome, a, ha, htarget⟩

theorem lowestSource_lt {m : Byte} {k : Nat} (h : lowestSource m = some k) : k < 5 :=
  List.mem_range.1 (List.mem_of_find?_eq_some h)

/-- An interrupt entry that does not crash stores to the two addresses it pushes to. -/
theorem State.takeInterrupt_overlay {s : State} {k : Nat} (ha : (s.takeInterrupt k).Alive) :
    (s.takeInterrupt k).overlay = s.overlay ∨ s.ReachesBootOff [s.regs.sp - 1, s.regs.sp - 2] := by
  unfold State.takeInterrupt at ha ⊢
  dsimp only at ha ⊢
  split at ha
  · exact absurd rfl (ha _)
  · rename_i u hpush
    have hmove : CoreMove [s.regs.sp - 1, s.regs.sp - 2] _ u :=
      .pushed (.refl _) hpush ⟨.head _, .tail _ (.head _)⟩
    refine hmove.overlay_cases.imp_left fun h => ?_
    exact (State.dispatchClocks_overlay _).trans h

/-- The interrupt entry that `t` ends with pushes to an address that reaches BOOTOFF, in a state with the overlay of
`s`. -/
def State.EntersThroughBootOff (s t : State) : Prop :=
  ∃ (u : State) (k : Nat), k < 5 ∧ t = u.takeInterrupt k ∧ u.overlay = s.overlay ∧
    u.ReachesBootOff [u.regs.sp - 1, u.regs.sp - 2]

theorem State.serviceInterrupts_overlay {s : State} (ha : s.serviceInterrupts.Alive) :
    s.serviceInterrupts.overlay = s.overlay ∨ s.EntersThroughBootOff s.serviceInterrupts := by
  unfold State.serviceInterrupts State.dispatch at ha ⊢
  split_ifs at ha ⊢
  · split at ha
    · rename_i k hk
      refine (State.takeInterrupt_overlay ha).imp (·.trans s.wake_overlay) fun hreach => ?_
      exact ⟨s.wake, k, lowestSource_lt hk, rfl, s.wake_overlay, hreach⟩
    · exact .inl s.wake_overlay
  · exact .inl s.wake_overlay

theorem State.EntersThroughBootOff.congr {r s t : State} (h : s.EntersThroughBootOff t)
    (e : s.overlay = r.overlay) : r.EntersThroughBootOff t :=
  let ⟨u, k, hk, ht, hu, hreach⟩ := h
  ⟨u, k, hk, ht, hu.trans e, hreach⟩

theorem State.idleStep_overlay {s : State} (ha : s.idleStep.Alive) :
    s.idleStep.overlay = s.overlay ∨ s.EntersThroughBootOff s.idleStep :=
  State.serviceInterrupts_overlay ha

theorem State.endOfStep_overlay {s : State} {before : Option Nat} (ha : (s.endOfStep before).Alive) :
    (s.endOfStep before).overlay = s.overlay ∨ s.EntersThroughBootOff (s.endOfStep before) := by
  unfold State.endOfStep at ha ⊢
  split
  · rename_i hrun
    rw [hrun] at ha
    exact (State.serviceInterrupts_overlay ha).imp (·.trans (s.settleEnable_overlay before))
      (·.congr (s.settleEnable_overlay before))
  · exact .inl rfl

/-- The instruction that `p` fetches and executes stores to an address that reaches BOOTOFF. -/
def State.InstructionReachesBootOff (p : State) : Prop :=
  (p.halt || p.stop) = false ∧ ∃ i, p.fetch = .ok i ∧ p.ReachesBootOff (storeAddresses i p)

/-- A step that changes the overlay does so by a store of its instruction or by a push of its interrupt entry. -/
theorem step_overlay {s t : State} (h : step s = .next t) (ha : t.Alive) :
    t.overlay = s.overlay ∨ s.hostBoundary.2.pollJoypad.InstructionReachesBootOff ∨ s.EntersThroughBootOff t := by
  obtain ⟨-, ⟨-, rfl⟩ | ⟨-, -, rfl⟩ | ⟨-, -, p, rfl, hcore⟩⟩ := step_cases h
  · exact .inl s.hostBoundary_overlay
  · exact .inl s.hostBoundary_overlay
  · have hinput := s.input_overlay
    rcases hcore with ⟨-, rfl⟩ | ⟨hawake, ⟨c, -, rfl⟩ | ⟨i, u, hfetch, hexec, rfl⟩⟩
    · exact (State.idleStep_overlay ha).imp (·.trans hinput) fun hentry => .inr (hentry.congr hinput)
    · exact absurd rfl (ha c)
    · have hmove := CoreMove.of_exec hexec (State.endOfStep_alive ha)
      rcases hmove.overlay_cases with hsame | hreach
      · exact (State.endOfStep_overlay ha).imp (·.trans (hsame.trans hinput)) fun hentry =>
          .inr (hentry.congr (hsame.trans hinput))
      · exact .inr (.inl ⟨hawake, i, hfetch, hreach⟩)

/-- Settles O60: every part of a step keeps the machine the same one (`State.SameMachine.kept`), and of those parts only
the stores of the instruction and of the interrupt entry can reach the overlay (`step_overlay`). -/
theorem stepKeepsMapAndImages : Obligations.StepKeepsMapAndImages := by
  unfold Obligations.StepKeepsMapAndImages
  intro m s t hmap hstep halive
  have hself : State.SameMachine m s s := ⟨hmap, rfl, rfl, rfl, id⟩
  have hsame : State.SameMachine m s t := (State.SameMachine.kept m s).step hself hstep halive
  obtain ⟨hkind, hrom, hromLen, hcramLen⟩ := Cart.fixedParts_eq_iff.1 hsame.cart
  refine ⟨hsame.map, hsame.params, hsame.boot, hrom, hromLen, hcramLen, hkind, hsame.unmapped, fun hchanged => ?_⟩
  rcases step_overlay hstep halive with hkept | ⟨hawake, i, hfetch, hreach⟩ | ⟨u, k, hk, ht, hu, hreach⟩
  · exact absurd (State.overlay_eq_iff.1 hkept).2.2 hchanged
  · obtain ⟨hsome, a, ha, htarget⟩ := hreach.congr s.input_overlay
    exact ⟨hsome, a, htarget, .inl ⟨hawake, i, hfetch, ha⟩⟩
  · obtain ⟨hbus, -, hmapped⟩ := State.overlay_eq_iff.1 hu
    obtain ⟨hsome, a, ha, htarget⟩ := hreach.congr hu
    exact ⟨hsome, a, htarget, .inr ⟨u, k, hk, ht, hbus, hmapped, ha⟩⟩

end Sys2Proof.Machine
end

section
/-! SUPPORT. Accesses to the plain arrays (work RAM, high RAM, video RAM, the sprite table): a write completes, is read
back, and leaves every other byte alone, through one write and through an instruction. -/

namespace Sys2Proof.Machine

/-! ## One unit's write -/

section
variable {lo hi k : Nat} (m : Memory) (v : Byte) (x : Except Fatal Byte)

/-- An array read through the window `lo` to `hi` of addresses, at the address just written. -/
theorem Memory.window_write_same (hm : m.wf = true) (h : lo ≤ k ∧ k < hi) :
    (if lo ≤ k ∧ k < hi then .ok ((m.write (k - lo) v).read (k - lo)) else x) = .ok v := by
  rw [if_pos h, Memory.read_write_same _ _ _ hm]

theorem Memory.window_write_other {j : Nat} (h : lo ≤ k) (hj : j ≠ k) :
    (if lo ≤ j ∧ j < hi then .ok ((m.write (k - lo) v).read (j - lo)) else x) =
      if lo ≤ j ∧ j < hi then .ok (m.read (j - lo)) else x := by
  split_ifs
  · rw [Memory.read_write_other (by omega)]
  · rfl

end

/-- Unit `u` has an element of a plain array at its own address `k` (rules R106, R431). -/
def PlainCell (u : BusUnit) (k : Nat) : Prop :=
  u = .workRam ∧ 0xC000 ≤ k ∧ k < 0xE000 ∨ u = .highRam ∧ 0xFF80 ≤ k ∧ k < 0xFFFF ∨
    u = .display ∧ (0x8000 ≤ k ∧ k < 0xA000 ∨ 0xFE00 ≤ k ∧ k < 0xFEA0)

theorem State.PlainAt.cell {s : State} {a : Word} (h : s.PlainAt a) :
    ∃ u k, s.target a = some (u, k) ∧ PlainCell u k := by
  obtain ⟨k, ⟨ht, h⟩ | ⟨ht, h⟩ | ⟨ht, h⟩⟩ := h
  · exact ⟨_, k, ht, .inl ⟨rfl, h⟩⟩
  · exact ⟨_, k, ht, .inr (.inl ⟨rfl, h⟩)⟩
  · exact ⟨_, k, ht, .inr (.inr ⟨rfl, h⟩)⟩

/-- The plain arrays, the CPU registers and the cycle report, taken from `t`; everything else from `s`. -/
def State.withStored (s t : State) : State :=
  { s with
    regs := t.regs, cyc := t.cyc, wram := t.wram, hram := t.hram
    ppu := { s.ppu with vram := t.ppu.vram, oam := t.ppu.oam } }

/-- No stored byte is one of the map. -/
theorem State.busMap_of_stored {s t : State} (h : t = s.withStored t) : t.busMap = s.busMap := by
  rw [h]; rfl

/-- `t` is `s` with the byte `v` written at the unit `u`'s own address `k`, and no other byte. -/
structure State.CellWritten (s t : State) (u : BusUnit) (k : Nat) (v : Byte) : Prop where
  write : s.unitWrite u k v = .done () t
  frame : t = s.withStored t
  same : t.unitRead u k = .ok v
  other : ∀ w j, (w, j) ≠ (u, k) → t.unitRead w j = s.unitRead w j

section
variable {s : State} {u : BusUnit} {k : Nat}

theorem State.unitRead_plain (s : State) (h : PlainCell u k) : ∃ v, s.unitRead u k = .ok v := by
  obtain ⟨rfl, h⟩ | ⟨rfl, h⟩ | ⟨rfl, h | h⟩ := h
  · exact ⟨_, if_pos h⟩
  · exact ⟨_, if_pos h⟩
  · exact ⟨_, if_pos h⟩
  · exact ⟨_, (if_neg (by omega)).trans (if_pos h)⟩

theorem State.unitWrite_plain (hc : s.MemoriesCanonical) (h : PlainCell u k) (v : Byte) :
    ∃ t, s.CellWritten t u k v := by
  have hj {w : BusUnit} {j : Nat} (hne : (w, j) ≠ (w, k)) : j ≠ k := fun e => hne (e ▸ rfl)
  obtain ⟨rfl, h⟩ | ⟨rfl, h⟩ | ⟨rfl, h | h⟩ := h
  · refine ⟨_, if_pos h, rfl, s.wram.window_write_same v _ hc.wram h, fun w j hne => ?_⟩
    cases w with
    | workRam => exact s.wram.window_write_other v _ h.1 (hj hne)
    | _ => rfl
  · refine ⟨_, if_pos h, rfl, s.hram.window_write_same v _ hc.hram h, fun w j hne => ?_⟩
    cases w with
    | highRam => exact s.hram.window_write_other v _ h.1 (hj hne)
    | _ => rfl
  · refine ⟨_, if_pos h, rfl, s.ppu.vram.window_write_same v _ hc.vram h, fun w j hne => ?_⟩
    cases w with
    | display => exact s.ppu.vram.window_write_other v _ h.1 (hj hne)
    | _ => rfl
  · have hv : ¬ (0x8000 ≤ k ∧ k < 0xA000) := by omega
    refine ⟨_, (if_neg hv).trans (if_pos h), rfl,
      (if_neg hv).trans (s.ppu.oam.window_write_same v _ hc.oam h), fun w j hne => ?_⟩
    cases w with
    | display => exact ite_congr rfl (fun _ => rfl) fun _ => s.ppu.oam.window_write_other v _ h.1 (hj hne)
    | _ => rfl

end

/-! ## One bus write -/

section
variable {s t : State} {a : Word} {v : Byte}

theorem State.readByte_of_target {u : BusUnit} {k : Nat} (h : s.target a = some (u, k)) :
    s.readByte a = s.unitRead u k := by
  unfold State.readByte
  rw [h]

theorem State.writeByte_of_target {u : BusUnit} {k : Nat} (h : s.target a = some (u, k)) :
    s.writeByte a v = s.unitWrite u k v := by
  unfold State.writeByte
  rw [h]

theorem State.PlainAt.readByte (h : s.PlainAt a) : ∃ v, s.readByte a = .ok v := by
  obtain ⟨u, k, ht, hcell⟩ := h.cell
  rw [State.readByte_of_target ht]
  exact s.unitRead_plain hcell

/-- A write of a plain array completes and changes the one byte it reaches. -/
theorem State.PlainAt.writeByte (h : s.PlainAt a) (hc : s.MemoriesCanonical) (v : Byte) :
    ∃ t, s.writeByte a v = .done () t ∧ s.StoredOnly t a v := by
  obtain ⟨u, k, ht, hcell⟩ := h.cell
  obtain ⟨t, hw⟩ := State.unitWrite_plain hc hcell v
  have hmap : t.busMap = s.busMap := State.busMap_of_stored hw.frame
  refine ⟨t, (State.writeByte_of_target ht).trans hw.write, fun b hb => ?_, fun b hb => ?_, hw.frame⟩
  · rw [State.readByte_of_target (by rw [State.target_congr hmap, hb, ht]), hw.same]
  · cases htb : s.target b with
    | none =>
      have htb' : t.target b = none := by rw [State.target_congr hmap, htb]
      rw [(State.access_unowned (v := v) htb).1, (State.access_unowned (v := v) htb').1]
    | some c =>
      have htb' : t.target b = some (c.1, c.2) := by rw [State.target_congr hmap, htb]
      rw [State.readByte_of_target htb, State.readByte_of_target htb']
      exact hw.other _ _ fun e => hb (by rw [htb, ht, ← e])

/-- Under the default map no two addresses reach one byte. -/
theorem State.MapSound.target_inj (hmap : s.MapSound) {b : Word} (h : s.PlainAt a)
    (hb : s.target b = s.target a) : b = a := by
  obtain ⟨u, k, ht, -⟩ := h.cell
  have hk {c : Word} (hc : s.target c = some (u, k)) : c.toNat = k := by
    rw [State.MapSound.target_eq hmap] at hc
    obtain ⟨_, -, h⟩ := Option.map_eq_some_iff.1 hc
    exact congrArg Prod.snd h
  exact BitVec.eq_of_toNat_eq ((hk (hb.trans ht)).trans (hk ht).symm)

end

/-- Settles O34: the write of the plain array behind the address (`State.PlainAt.writeByte`); under the default map that
array has no second address for the byte. -/
theorem plainWriteReadsBack : Obligations.PlainWriteReadsBack := by
  unfold Obligations.PlainWriteReadsBack
  intro s a v hcanonical hplain
  obtain ⟨t, hwrite, hstored⟩ := hplain.writeByte hcanonical v
  refine ⟨t, hwrite, hstored, fun hmap b hb => ?_, State.writeByte_regs hwrite, ?_,
    State.writeByte_canonical hcanonical hwrite⟩
  · exact hstored.2.1 b fun htarget => hb (hmap.target_inj hplain htarget)
  · rw [State.writeByte_frame s t a v hwrite]; rfl

/-! ## An instruction's stores -/

/-- Between `s` and `t` nothing but the bytes behind the addresses `A`, the CPU registers and the cycle report
changes. -/
structure State.StoredAt (A : List Word) (s t : State) : Prop where
  canonical : t.MemoriesCanonical
  reads : ∀ b, (∀ a ∈ A, s.target b ≠ s.target a) → t.readByte b = s.readByte b
  frame : t = s.withStored t

/-- `x` is a next state reached from `s` by stores to `A` only. -/
def CompletesWith (A : List Word) (s : State) (x : Result) : Prop := ∃ t, x = .next t ∧ s.StoredAt A t

section
variable {A : List Word} {s t : State}

theorem State.StoredAt.refl (hc : s.MemoriesCanonical) : s.StoredAt A s := ⟨hc, fun _ _ => rfl, rfl⟩

theorem State.StoredAt.busMap (h : s.StoredAt A t) : t.busMap = s.busMap := State.busMap_of_stored h.frame

theorem State.StoredAt.cpu (h : s.StoredAt A t) (r : Regs) (n : Nat) : s.StoredAt A (t.withCpu r n) where
  canonical := { h.canonical with }
  reads := h.reads
  frame := congrArg (·.withCpu r n) h.frame

/-- An instruction's last act: new CPU registers and a cycle report. -/
theorem State.StoredAt.done (h : s.StoredAt A t) {r : Regs} {n : Nat} :
    CompletesWith A s (.next (t.withCpu r n)) := ⟨_, rfl, h.cpu r n⟩

variable (hA : ∀ a ∈ A, s.PlainAt a)
include hA

theorem State.StoredAt.plainAt (h : s.StoredAt A t) {a : Word} (ha : a ∈ A) : t.PlainAt a := by
  have hplain := hA a ha
  unfold State.PlainAt at hplain ⊢
  rwa [State.target_congr h.busMap]

theorem State.StoredAt.write (h : s.StoredAt A t) {a : Word} (ha : a ∈ A) (v : Byte) :
    ∃ u, t.writeByte a v = .done () u ∧ s.StoredAt A u := by
  obtain ⟨u, hw, -, hother, hframe⟩ := (h.plainAt hA ha).writeByte h.canonical v
  refine ⟨u, hw, State.writeByte_canonical h.canonical hw, fun b hb => ?_, ?_⟩
  · have hne : t.target b ≠ t.target a := by
      rw [State.target_congr h.busMap, State.target_congr h.busMap]
      exact hb a ha
    exact (hother b hne).trans (h.reads b hb)
  · exact hframe.trans (congrArg (·.withStored u) h.frame)

namespace CompletesWith

theorem store (h : s.StoredAt A t) {a : Word} {v : Byte} {k : State → Result} (ha : a ∈ A)
    (hk : ∀ u, s.StoredAt A u → CompletesWith A s (k u)) : CompletesWith A s (t.withStore a v k) := by
  obtain ⟨u, hw, hu⟩ := h.write hA ha v
  rw [State.withStore_done hw]
  exact hk u hu

theorem storeWord (h : s.StoredAt A t) {a v : Word} {k : State → Result} (ha : a ∈ A) (ha' : a + 1 ∈ A)
    (hk : ∀ u, s.StoredAt A u → CompletesWith A s (k u)) : CompletesWith A s (t.withStoreWord a v k) := by
  obtain ⟨u, hlow, hu⟩ := h.write hA ha (loByte v)
  obtain ⟨w, hhigh, hw⟩ := hu.write hA ha' (hiByte v)
  simp only [State.withStoreWord, State.writeWord, hlow, hhigh]
  exact hk w hw

theorem push (h : s.StoredAt A t) {v : Word} {k : State → Result} (ha : t.regs.sp - 1 ∈ A)
    (ha' : t.regs.sp - 2 ∈ A) (hk : ∀ u, s.StoredAt A u → CompletesWith A s (k u)) :
    CompletesWith A s (t.withPush v k) := by
  obtain ⟨u, hhigh, hu⟩ := h.write hA ha (hiByte v)
  obtain ⟨w, hlow, hw⟩ := hu.write hA ha' (loByte v)
  simp only [State.withPush, State.push16_done hhigh hlow]
  exact hk _ (hw.cpu _ _)

theorem modify (h : s.StoredAt A t) {f : Byte → Byte} {k : Byte → State → Result} (ha : t.hl ∈ A)
    (hk : ∀ v u, s.StoredAt A u → CompletesWith A s (k v u)) : CompletesWith A s (t.modifyHl f k) := by
  obtain ⟨v, hv⟩ := (h.plainAt hA ha).readByte
  unfold State.modifyHl
  rw [State.withLoad_ok hv]
  exact store hA h ha (hk v)

theorem shiftHl (h : s.StoredAt A t) {f : Byte → Byte × Bool} (ha : t.hl ∈ A) :
    CompletesWith A s (t.shiftHl f) := modify hA h ha fun _ _ hu => hu.done

theorem call (h : s.StoredAt A t) {len n : Nat} {a : Word} (ha : t.regs.sp - 1 ∈ A) (ha' : t.regs.sp - 2 ∈ A) :
    CompletesWith A s (t.call len a n) := push hA h ha ha' fun _ hu => hu.done

end CompletesWith

end

/-- The extended instructions that store are those of the byte at HL but for BIT (rules R150, R297). -/
theorem execPrefixCb_completes {s : State} (hc : s.MemoriesCanonical) (op2 : Byte) (h6 : op2.toNat % 8 = 6)
    (hbit : op2.toNat / 64 ≠ 1) (hplain : ∀ a ∈ [s.hl], s.PlainAt a) :
    CompletesWith [s.hl] s (execPrefixCb op2 s) := by
  have hs : s.StoredAt [s.hl] s := .refl hc
  have hz : zField op2 = 6 := BitVec.eq_of_toNat_eq (by simpa [zField] using h6)
  have hnone : Reg8.ofCode (zField op2) = none := by rw [hz]; rfl
  unfold execPrefixCb
  rw [hnone]
  dsimp only
  split
  case h_1 | h_2 | h_3 | h_4 | h_5 | h_6 | h_7 | h_8 | h_17 => contradiction
  case h_9 | h_10 | h_11 | h_12 | h_13 | h_14 | h_15 | h_16 => exact .shiftHl hplain hs (.head _)
  case h_18 =>
    have hnotBit : ¬ op2.toNat / 8 < 16 := by simp only [imp_false] at *; omega
    rw [if_neg hnotBit]
    split_ifs
    · exact .modify hplain hs (.head _) fun _ _ hu => hu.done
    · exact .modify hplain hs (.head _) fun _ _ hu => hu.done

/-- An instruction all of whose stores go to plain arrays completes, and stores only. The cases stand by the shape of
the instruction's meaning. -/
theorem exec_completes (i : Instr) {s : State} (hc : s.MemoriesCanonical) (hne : storeAddresses i s ≠ [])
    (hplain : ∀ a ∈ storeAddresses i s, s.PlainAt a) : CompletesWith (storeAddresses i s) s (exec i s) := by
  have hs : s.StoredAt (storeAddresses i s) s := .refl hc
  cases i with
  -- one byte
  | ldBcA | ldDeA | ldHliA | ldHldA | ldHlN | ldHlR | ldNnA | ldhNA | ldhCA =>
    exact .store hplain hs (.head _) fun _ hu => hu.done
  -- two bytes at ascending addresses
  | ldNnSp => exact .storeWord hplain hs (.head _) (.tail _ (.head _)) fun _ hu => hu.done
  -- the byte at HL read, changed and written back
  | incHlMem | decHlMem | resHl | setHl => exact .modify hplain hs (.head _) fun _ _ hu => hu.done
  | rlcHl | rrcHl | rlHl | rrHl | slaHl | sraHl | swapHl | srlHl => exact .shiftHl hplain hs (.head _)
  -- two bytes pushed
  | pushQq => exact .push hplain hs (.head _) (.tail _ (.head _)) fun _ hu => hu.done
  | callNn | rstT => exact .call hplain hs (.head _) (.tail _ (.head _))
  | callCcNn cc nn =>
    simp only [storeAddresses] at hne hplain hs ⊢
    split_ifs at hne hplain hs ⊢ with hcc
    · have htaken : exec (.callCcNn cc nn) s = s.call 3 nn 24 := if_pos hcc
      rw [htaken]
      exact .call hplain hs (.head _) (.tail _ (.head _))
    · exact absurd rfl hne
  | prefixCb op2 =>
    simp only [storeAddresses] at hne hplain hs ⊢
    split_ifs at hne hplain hs ⊢ with hop
    · exact execPrefixCb_completes hc op2 hop.1 hop.2 hplain
    · exact absurd rfl hne
  -- the others store nothing
  | _ => exact absurd rfl hne

/-- Settles O33: the stores complete one by one, each changing the byte it reaches (`exec_completes`). -/
theorem storingInstructionsChangeStoredBytesOnly : Obligations.StoringInstructionsChangeStoredBytesOnly := by
  unfold Obligations.StoringInstructionsChangeStoredBytesOnly
  intro i s hcanonical hstores hplain
  obtain ⟨t, hexec, hstored⟩ := exec_completes i hcanonical hstores hplain
  refine ⟨t, hexec, hstored.reads, fun hmap b hb => hstored.reads b fun a ha htarget => ?_, hstored.frame⟩
  exact hb (hmap.target_inj (hplain a ha) htarget ▸ ha)

end Sys2Proof.Machine
end

section
/-! SUPPORT. The encoder and the tables are inverse to each other: each row encodes back to the bytes it read, the first
row whose pattern matches answers, and so every instruction is read back from its bytes. -/

namespace Sys2Proof

/-! ## Operand codes and the fields of an opcode byte -/

@[simp] theorem PairRR.code_ofCode (c : BitVec 2) : (PairRR.ofCode c).code = c := by revert c; decide

@[simp] theorem PairQQ.code_ofCode (c : BitVec 2) : (PairQQ.ofCode c).code = c := by revert c; decide

@[simp] theorem Cond.code_ofCode (c : BitVec 2) : (Cond.ofCode c).code = c := by revert c; decide

/-- The register of a code has that code (rule R143). -/
theorem Reg8.code_of_ofCode {c : BitVec 3} {r : Reg8} (h : Reg8.ofCode c = some r) : r.code = c := by
  have hcodes : ∀ c : BitVec 3, ∀ r ∈ Reg8.ofCode c, r.code = c := by decide
  exact hcodes c r h

@[simp] theorem lowByte_append (hi lo : Byte) : lowByte (hi ++ lo) = lo :=
  BitVec.extractLsb'_append_eq_right

@[simp] theorem highByte_append (hi lo : Byte) : highByte (hi ++ lo) = hi :=
  BitVec.extractLsb'_append_eq_left

@[simp] theorem highByte_append_lowByte (nn : Word) : highByte nn ++ lowByte nn = nn :=
  BitVec.extractLsb'_append_extractLsb' (w := 8) (len := 8) (x := nn)

section
variable {pat : Byte}

theorem or_atP_pField (op : Byte) (h : op &&& 0xCF = pat) : pat ||| atP (pField op) = op := by
  subst h; revert op; decide +kernel

theorem or_atCc_ccField (op : Byte) (h : op &&& 0xE7 = pat) : pat ||| atCc (ccField op) = op := by
  subst h; revert op; decide +kernel

theorem or_atY_yField (op : Byte) (h : op &&& 0xC7 = pat) : pat ||| atY (yField op) = op := by
  subst h; revert op; decide +kernel

theorem or_atZ_zField (op : Byte) (h : op &&& 0xF8 = pat) : pat ||| atZ (zField op) = op := by
  subst h; revert op; decide +kernel

theorem or_atY_or_atZ (op : Byte) (h : op &&& 0xC0 = pat) : pat ||| (atY (yField op) ||| atZ (zField op)) = op := by
  subst h; revert op; decide +kernel

end

/-! ## What the rows of the base table read -/

/-- `i` is read from an opcode and two bytes as an instruction of `len` bytes: its encoding is those bytes, and only
PREFIX CB, of which the extended table reads the rest, is no instruction itself. -/
def Instr.Spells (i : Instr) (op b1 b2 : Byte) (len : Nat) : Prop :=
  encode i = [op, b1, b2].take len ∧ (i.wellFormed = true ∨ i = .prefixCb b1)

/-- What a row builds from an opcode that matches its pattern spells the bytes it was built from. -/
def BaseRow.Sound (r : BaseRow) : Prop :=
  ∀ op b1 b2, op &&& r.mask = r.pat → ∀ i ∈ r.build op b1 b2, i.Spells op b1 b2 r.len

namespace BaseRow.Sound

variable {mask pat : Byte} {len : Nat}

/-- A row of one opcode. -/
theorem fixed {g : Byte → Byte → Instr} (hg : ∀ b1 b2, (g b1 b2).Spells pat b1 b2 len) :
    Sound ⟨0xFF, pat, len, fun _ b1 b2 => some (g b1 b2)⟩ := by
  rintro op b1 b2 hop _ ⟨⟩
  obtain rfl : op = pat := (BitVec.and_allOnes (x := op)).symm.trans hop
  exact hg b1 b2

/-- A row with a field in the opcode, which is the pattern and that field together. -/
theorem field {put : Byte → Byte} {g : Byte → Byte → Byte → Option Instr}
    (hput : ∀ op, op &&& mask = pat → pat ||| put op = op)
    (hg : ∀ op b1 b2, ∀ i ∈ g op b1 b2, i.Spells (pat ||| put op) b1 b2 len) : Sound ⟨mask, pat, len, g⟩ := by
  intro op b1 b2 hop i hi
  simpa only [hput op hop] using hg op b1 b2 i hi

/-- A row with a register code in the opcode. -/
theorem reg {get : Byte → BitVec 3} {put : BitVec 3 → Byte} {g : Reg8 → Byte → Byte → Instr}
    (hput : ∀ op, op &&& mask = pat → pat ||| put (get op) = op)
    (hg : ∀ r b1 b2, (g r b1 b2).Spells (pat ||| put r.code) b1 b2 len) :
    Sound ⟨mask, pat, len, fun op b1 b2 => (Reg8.ofCode (get op)).bind fun r => some (g r b1 b2)⟩ := by
  refine field hput fun op b1 b2 i hi => ?_
  obtain ⟨r, hr, ⟨⟩⟩ := Option.bind_eq_some_iff.mp hi
  simpa only [Reg8.code_of_ofCode hr] using hg r b1 b2

/-- The row POP qq, which leaves the code of AF to POP AF (rule R205). -/
theorem popQq : Sound ⟨0xCF, 0xC1, 1, fun op _ _ =>
    if pField op = 3#2 then none else some (.popQq (PairQQ.ofCode (pField op)))⟩ := by
  have hwf : ∀ c : BitVec 2, c ≠ 3#2 → (Instr.popQq (PairQQ.ofCode c)).wellFormed = true := by decide
  refine field or_atP_pField fun op b1 b2 i hi => ?_
  split at hi
  · cases hi
  · cases hi
    exact ⟨by simp [encode], .inl (hwf _ ‹_›)⟩

/-- The row LD r,r', of two register codes. -/
theorem ldRR : Sound ⟨0xC0, 0x40, 1, fun op _ _ =>
    (Reg8.ofCode (yField op)).bind fun dst => (Reg8.ofCode (zField op)).bind fun src => some (.ldRR dst src)⟩ := by
  refine field or_atY_or_atZ fun op b1 b2 i hi => ?_
  obtain ⟨dst, hdst, hi⟩ := Option.bind_eq_some_iff.mp hi
  obtain ⟨src, hsrc, ⟨⟩⟩ := Option.bind_eq_some_iff.mp hi
  exact ⟨by simp [encode, Reg8.code_of_ofCode hdst, Reg8.code_of_ofCode hsrc, BitVec.or_assoc], .inl rfl⟩

end BaseRow.Sound

theorem fixedRows_sound : ∀ r ∈ baseRows1 ++ baseRows2 ++ baseRows3, r.Sound := by
  simp only [baseRows1, baseRows2, baseRows3, List.forall_mem_append, List.forall_mem_cons, List.not_mem_nil,
    IsEmpty.forall_iff, implies_true, and_true]
  and_intros <;> exact .fixed fun _ _ => by simp [Instr.Spells, encode, Instr.wellFormed]

theorem fieldRows_sound : ∀ r ∈ baseRows4, r.Sound := by
  simp only [baseRows4, List.forall_mem_cons, List.not_mem_nil, IsEmpty.forall_iff, implies_true, and_true]
  refine ⟨
    -- LD rr,nn to DEC rr
    .field or_atP_pField ?_, .field or_atP_pField ?_, .field or_atP_pField ?_, .field or_atP_pField ?_,
    -- JR cc,e to PUSH qq
    .field or_atCc_ccField ?_, .field or_atCc_ccField ?_, .popQq, .field or_atCc_ccField ?_, .field or_atCc_ccField ?_,
    .field or_atP_pField ?_,
    -- INC r to LD r,(HL)
    .reg or_atY_yField ?_, .reg or_atY_yField ?_, .reg or_atY_yField ?_, .reg or_atY_yField ?_,
    -- LD (HL),r to CP r
    .reg or_atZ_zField ?_, .reg or_atZ_zField ?_, .reg or_atZ_zField ?_, .reg or_atZ_zField ?_,
    .reg or_atZ_zField ?_, .reg or_atZ_zField ?_, .reg or_atZ_zField ?_, .reg or_atZ_zField ?_,
    .reg or_atZ_zField ?_,
    -- RST t and LD r,r'
    .field or_atY_yField ?_, .ldRR⟩
  all_goals simp [Instr.Spells, encode, Instr.wellFormed]

theorem baseRows_sound : ∀ r ∈ baseRows, r.Sound :=
  List.forall_mem_append.2 ⟨fixedRows_sound, fieldRows_sound⟩

/-! ## The first row that matches -/

/-- A search whose first match answers ends there. -/
theorem findSome?_ite_of_find? {α β : Type} {p : α → Prop} [DecidablePred p] {f : α → Option β} {l : List α} {a : α}
    (h : l.find? (fun a => decide (p a)) = some a) (ha : (f a).isSome = true) :
    (l.findSome? fun a => if p a then f a else none) = f a := by
  obtain ⟨b, hb⟩ := Option.isSome_iff_exists.mp ha
  obtain ⟨hp, as, bs, hl, has⟩ := List.find?_eq_some_iff_append.mp h
  rw [hb, List.findSome?_eq_some_iff]
  exact ⟨as, a, bs, hl, by simpa [hb] using hp, fun x hx => if_neg (by simpa using has x hx)⟩

/-- The first row whose pattern matches gives both the length and the instruction (rules R141, R153): an excluded field
value has its own row before the row that excludes it. -/
theorem exists_row (op : Byte) : ∃ r ∈ baseRows, op &&& r.mask = r.pat ∧ opLength op = r.len ∧
    ∀ b1 b2, lookupBase op b1 b2 = r.build op b1 b2 := by
  have hfirst : ∀ op : Byte, (baseRows.find? fun r => op &&& r.mask = r.pat).any
      (fun r => (r.build op 0 0).isSome) = true := by decide +kernel
  obtain ⟨r, hr, hanswers⟩ := (Option.any_eq_true _ _).mp (hfirst op)
  have hmem : r ∈ baseRows := List.mem_of_find?_eq_some hr
  refine ⟨r, hmem, by simpa using List.find?_some hr, ?_, fun b1 b2 => ?_⟩
  · exact congrArg (Option.getD · 1) (findSome?_ite_of_find? (f := fun r => some r.len) hr rfl)
  · exact findSome?_ite_of_find? hr ((baseRows_opcodeOnly r hmem op b1 b2).trans hanswers)

/-- The base table reads an instruction from the bytes that spell it, as many as their first one announces. -/
theorem spells_of_lookupBase {op b1 b2 : Byte} {i : Instr} (h : lookupBase op b1 b2 = some i) :
    i.Spells op b1 b2 (opLength op) := by
  obtain ⟨r, hmem, hop, hlen, hbuild⟩ := exists_row op
  rw [hlen]
  exact baseRows_sound r hmem op b1 b2 hop i ((hbuild b1 b2).symm.trans h)

/-- The extended table reads an instruction from the two bytes that encode it (rule R150). -/
theorem encode_of_lookupExt {op2 : Byte} {i : Instr} (h : lookupExt op2 = some i) :
    i.wellFormed = true ∧ encode i = [0xCB, op2] := by
  have hrows : ∀ op2 : Byte, ∀ i ∈ lookupExt op2, i.wellFormed = true ∧ encode i = [0xCB, op2] := by decide +kernel
  exact hrows op2 i h

theorem opLength_bounds (op : Byte) : 1 ≤ opLength op ∧ opLength op ≤ 3 := by
  have hrows : ∀ r ∈ baseRows, 1 ≤ r.len ∧ r.len ≤ 3 := by decide
  obtain ⟨r, hmem, -, hlen, -⟩ := exists_row op
  exact hlen ▸ hrows r hmem

/-! ## The decoder, by the table that answers -/

/-- The base table's instruction is decoded, and its bytes are dropped. -/
theorem decode_of_lookupBase {op : Byte} {rest : List Byte} {i : Instr} (hwf : i.wellFormed = true)
    (hlen : opLength op ≤ rest.length + 1) (h : lookupBase op (rest.getD 0 0) (rest.getD 1 0) = some i) :
    decode (op :: rest) = .ok (i, rest.drop (opLength op - 1)) := by
  unfold decode
  simp only [if_neg (Nat.not_lt.mpr hlen), h]
  split
  · rename_i hprefix
    cases hprefix
    cases hwf
  · rename_i hi
    cases hi
    rfl
  · contradiction

/-- After PREFIX CB the extended table answers (rules R150, R335). -/
theorem decode_of_lookupExt {op2 : Byte} {rest : List Byte} {i : Instr} (h : lookupExt op2 = some i) :
    decode (0xCB :: op2 :: rest) = .ok (i, rest) := by
  have hprefix : lookupBase 0xCB op2 (rest.getD 0 0) = some (.prefixCb op2) := rfl
  have hlen : ¬ (op2 :: rest).length + 1 < opLength 0xCB := by
    rw [show opLength 0xCB = 2 from rfl, List.length_cons]
    omega
  unfold decode
  simp only [if_neg hlen, List.getD_cons_zero, List.getD_cons_succ, hprefix, h, List.drop_succ_cons, List.drop_zero]

/-! ## Reading an instruction back -/

/-- The decoder reads `i` from its encoding, whatever follows. -/
def Instr.ReadsBack (i : Instr) : Prop := ∀ rest, decode (encode i ++ rest) = .ok (i, rest)

namespace Instr.ReadsBack

variable {i : Instr} {op : Byte} {tail : List Byte}

/-- An instruction of the base table, whose bytes are `tail` after the opcode. -/
theorem base (hwf : i.wellFormed = true) (henc : encode i = op :: tail)
    (h : ∀ rest : List Byte, lookupBase op ((tail ++ rest).getD 0 0) ((tail ++ rest).getD 1 0) = some i) :
    i.ReadsBack := by
  intro rest
  have hlen : opLength op = tail.length + 1 := by
    have hspelt := congrArg List.length (spells_of_lookupBase (h [])).1
    rw [henc, List.length_take_of_le (opLength_bounds op).2] at hspelt
    exact hspelt.symm
  have hdecode := decode_of_lookupBase hwf (by simp [hlen]) (h rest)
  simpa [henc, hlen] using hdecode

/-- An instruction of the base table with a 16-bit operand. -/
theorem word {f : Word → Instr} {nn : Word} (hwf : (f nn).wellFormed = true)
    (henc : encode (f nn) = [op, lowByte nn, highByte nn])
    (h : ∀ b1 b2, lookupBase op b1 b2 = some (f (b2 ++ b1))) : (f nn).ReadsBack :=
  base hwf henc fun _ => (h _ _).trans (congrArg (some ∘ f) (highByte_append_lowByte nn))

/-- An instruction of the extended table. -/
theorem ext {op2 : Byte} (henc : encode i = [0xCB, op2]) (h : lookupExt op2 = some i) : i.ReadsBack := by
  intro rest
  rw [henc]
  exact decode_of_lookupExt h

theorem rst (t : BitVec 3) : (Instr.rstT t).ReadsBack := by
  have hvectors : ∀ t : BitVec 3, t = 0 ∨ t = 1 ∨ t = 2 ∨ t = 3 ∨ t = 4 ∨ t = 5 ∨ t = 6 ∨ t = 7 := by decide
  obtain rfl | rfl | rfl | rfl | rfl | rfl | rfl | rfl := hvectors t <;> exact base rfl rfl fun _ => rfl

theorem ldRR (dst src : Reg8) : (Instr.ldRR dst src).ReadsBack := by
  cases dst <;> cases src <;> exact base rfl rfl fun _ => rfl

end Instr.ReadsBack

/-- Every instruction is read back from its bytes: the cases stand by the operands in the bytes. -/
theorem Instr.readsBack (i : Instr) (hwf : i.wellFormed = true) : i.ReadsBack := by
  cases i with
  -- no operand in the opcode, and none or one byte after it
  | nop | ldBcA | ldDeA | ldHliA | ldHldA | incHlMem | decHlMem | ldHlN | rlca | rrca | rla | rra | ldABc | ldADe | ldAHli
  | ldAHld | stop | jrE | daa | cpl | scf | ccf | halt | addAHl | adcAHl | subHl | sbcAHl | andHl | xorHl | orHl | cpHl
  | popAf | addAN | adcAN | subN | sbcAN | andN | xorN | orN | cpN | ret | reti | ldhNA | ldhAN | ldhCA | ldhAC | addSpE
  | jpHl | di | ei | ldHlSpE | ldSpHl | unrecD3 | unrecDB | unrecDD | unrecE3 | unrecE4 | unrecEB | unrecEC | unrecED
  | unrecF4 | unrecFC | unrecFD => exact .base hwf rfl fun _ => rfl
  -- a word after the opcode
  | ldNnSp | jpNn | callNn | ldNnA | ldANn => exact .word hwf rfl fun _ _ => rfl
  -- a pair or a condition in the opcode
  | ldRrNn rr => cases rr <;> exact .word hwf rfl fun _ _ => rfl
  | jpCcNn cc | callCcNn cc => cases cc <;> exact .word hwf rfl fun _ _ => rfl
  | incRr rr | addHlRr rr | decRr rr => cases rr <;> exact .base hwf rfl fun _ => rfl
  | jrCcE cc | retCc cc => cases cc <;> exact .base hwf rfl fun _ => rfl
  | pushQq qq => cases qq <;> exact .base hwf rfl fun _ => rfl
  | popQq qq =>
    cases qq with
    | af => cases hwf
    | bc | de | hl => exact .base hwf rfl fun _ => rfl
  -- a register, two of them, or a reset vector in the opcode
  | incR r | decR r | ldRN r | ldRHl r | ldHlR r | addAR r | adcAR r | subR r | sbcAR r | andR r | xorR r | orR r | cpR r =>
    cases r <;> exact .base hwf rfl fun _ => rfl
  | ldRR dst src => exact .ldRR dst src
  | rstT t => exact .rst t
  -- the extended table
  | prefixCb => cases hwf
  | rlcHl | rrcHl | rlHl | rrHl | slaHl | sraHl | swapHl | srlHl => exact .ext rfl rfl
  | rlcR r | rrcR r | rlR r | rrR r | slaR r | sraR r | swapR r | srlR r => cases r <;> exact .ext rfl rfl
  | bitHl b | resHl b | setHl b => exact .ext rfl (by revert b; decide +kernel)
  | bitR b r | resR b r | setR b r => exact .ext rfl (by cases r <;> revert b <;> decide +kernel)

/-- Settles O2: the opcode picks the row of the instruction, whose operands are the fields and bytes that the encoder
filled (`Instr.readsBack`). -/
theorem decodeOfEncodeReturnsInstruction : Obligations.DecodeOfEncodeReturnsInstruction := by
  unfold Obligations.DecodeOfEncodeReturnsInstruction
  intro i rest hwf
  exact i.readsBack hwf rest

/-- Settles O3: the row that answers spells the bytes it read (`spells_of_lookupBase`), and what it reads from them is an
instruction but for PREFIX CB, after which the extended table reads one. -/
theorem decodeCoversEveryByteSequence : Obligations.DecodeCoversEveryByteSequence := by
  unfold Obligations.DecodeCoversEveryByteSequence
  intro op b1 b2
  obtain ⟨i, hi⟩ := Option.isSome_iff_exists.mp (lookupBase_isSome op b1 b2)
  obtain ⟨henc, hwf | rfl⟩ := spells_of_lookupBase hi
  · have hdecode := decode_of_lookupBase (rest := [b1, b2]) hwf (opLength_bounds op).2 hi
    have hdrop : [b1, b2].drop (opLength op - 1) = [op, b1, b2].drop (opLength op) := by
      rw [← List.drop_succ_cons (a := op), Nat.sub_add_cancel (opLength_bounds op).1]
    refine ⟨i, _, hdecode, hwf, ?_, ?_⟩
    · rw [henc, hdrop, List.take_append_drop]
    · rw [henc, List.length_take_of_le (opLength_bounds op).2]
  · obtain ⟨i, hext⟩ := Option.isSome_iff_exists.mp (lookupExt_isSome b1)
    obtain ⟨hwf, hencExt⟩ := encode_of_lookupExt hext
    have hop : op = 0xCB := by
      obtain ⟨n, hn⟩ := Nat.exists_eq_add_of_le' (opLength_bounds op).1
      rw [hn, List.take_succ_cons] at henc
      exact (List.cons.inj henc).1.symm
    subst hop
    exact ⟨i, [b2], decode_of_lookupExt hext, hwf, by rw [hencExt]; rfl, by rw [hencExt]; rfl⟩

end Sys2Proof
end

section
/-! SUPPORT. The bytes of an instruction as numbers: an opcode's fields add up, and an immediate word is its low byte
and then its high byte. -/

namespace Sys2Proof

@[simp] theorem toNat_lowByte (v : Word) : (lowByte v).toNat = v.toNat % 256 := BitVec.extractLsb'_toNat ..

@[simp] theorem toNat_highByte (v : Word) : (highByte v).toNat = v.toNat / 256 := by
  rw [highByte, BitVec.extractLsb'_toNat, Nat.shiftRight_eq_div_pow]
  omega

/-- A field or-ed into a pattern that is clear under the field's mask adds to it. -/
theorem toNat_or_of_masked {pat mask x : Byte} (hpat : pat &&& mask = 0#8) (hx : mask &&& x = x) :
    (pat ||| x).toNat = pat.toNat + x.toNat := by
  have hdisjoint : pat &&& x = 0#8 := by rw [← hx, ← BitVec.and_assoc, hpat, BitVec.zero_and]
  rw [← BitVec.add_eq_or_of_and_eq_zero pat x hdisjoint, BitVec.toNat_add_of_and_eq_zero hdisjoint]

/-- A code at `op[5:3]` counts eight times (rule R142). -/
theorem toNat_or_atY {pat : Byte} (hpat : pat &&& 0x38 = 0) (c : BitVec 3) :
    (pat ||| atY c).toNat = pat.toNat + 8 * c.toNat := by
  have hfield : ∀ c : BitVec 3, 0x38 &&& atY c = atY c ∧ (atY c).toNat = 8 * c.toNat := by decide
  rw [toNat_or_of_masked hpat (hfield c).1, (hfield c).2]

/-- A code at `op[2:0]` counts once (rule R142). -/
theorem toNat_or_atZ {pat : Byte} (hpat : pat &&& 0x07 = 0) (c : BitVec 3) :
    (pat ||| atZ c).toNat = pat.toNat + c.toNat := by
  have hfield : ∀ c : BitVec 3, 0x07 &&& atZ c = atZ c ∧ (atZ c).toNat = c.toNat := by decide
  rw [toNat_or_of_masked hpat (hfield c).1, (hfield c).2]

/-- A word that is an instruction's encoding decodes to it. -/
theorem decode_eq_of_encode_eq {i : Instr} {bs : List Byte} (hwf : i.wellFormed = true) (henc : encode i = bs) :
    decode bs = .ok (i, []) := by
  have hread := i.readsBack hwf []
  rwa [henc, List.append_nil] at hread

/-- Settles O4: each word is the encoding of its instruction, which the decoder reads back. -/
theorem writtenWordsDecode : Obligations.WrittenWordsDecode := by
  unfold Obligations.WrittenWordsDecode
  refine ⟨?_, ?_, ?_, ?_, ?_, ?_, ?_, ?_, ?_⟩ <;> exact decode_eq_of_encode_eq rfl rfl

end Sys2Proof
end

section
/-! SUPPORT. The byte loads and stores, by the shape of their meaning: a load or a store followed by the last act of an
instruction. -/

namespace Sys2Proof.Machine

/-- The high-page address as a number (rule R190). -/
theorem highPage_eq (n : Byte) : highPage n = BitVec.ofNat 16 (0xFF00 + n.toNat) := by
  rw [BitVec.ofNat_add, BitVec.ofNat_toNat]
  rfl

section
variable {i : Instr} {s : State} {dst : Reg8} {a : Word} {v : Byte} {c : Fatal} {len n : Nat}

/-! ## Bytes -/

theorem bytesAre_cons {op : Byte} {tail : List Byte} {k : Nat} {ks : List Nat} (henc : encode i = op :: tail)
    (hop : op.toNat = k) (htail : tail.map BitVec.toNat = ks) : BytesAre i (k :: ks) := by
  rw [BytesAre, henc, List.map_cons, hop, htail]

/-- An instruction with an immediate word (rule R147). -/
theorem bytesAre_word {op : Byte} {nn : Word} {k : Nat} (henc : encode i = [op, lowByte nn, highByte nn])
    (hop : op.toNat = k) : BytesAre i [k, nn.toNat % 256, nn.toNat / 256] :=
  bytesAre_cons henc hop (by simp)

/-! ## Crashes -/

theorem CrashesWith.load {k : Byte → Result} (hexec : exec i s = s.withLoad a k) (h : s.readByte a = .error c) :
    CrashesWith i s c :=
  ⟨_, hexec.trans (State.withLoad_error h k), rfl⟩

theorem CrashesWith.store {k : State → Result} {w : State} (hexec : exec i s = s.withStore a v k)
    (h : s.writeByte a v = .fatal c w) : CrashesWith i s c :=
  ⟨_, hexec.trans (State.withStore_fatal h k), rfl⟩

/-! ## Loads -/

/-- An instruction whose last act puts a byte into a register. -/
theorem State.setReg_retire (s : State) (r : Reg8) (v : Byte) (len n : Nat) :
    ∃ t, (s.setReg r v).retire len n = .next t ∧ s.OnlyReg t r v ∧
      s.CpuStep t s.regs.f s.regs.sp (s.regs.pc + BitVec.ofNat 16 len) n := by
  refine ⟨_, rfl, ⟨?_, fun q hq => ?_⟩, ?_⟩
  · simp
  · simpa using s.reg_setReg_other hq v
  · cases r <;> rfl

theorem LoadsInto.of_exec (hexec : exec i s = s.withLoad a fun v => (s.setReg dst v).retire len n) :
    LoadsInto i s dst a len n := by
  refine ⟨fun v hread => ?_, fun c hread => .load hexec hread⟩
  rw [hexec, State.withLoad_ok hread]
  exact s.setReg_retire dst v len n

/-- A load of A that leaves `x` in HL (rules R187, R189). -/
theorem loadsA_movesHl {x : Word} (hexec : exec i s = s.withLoad a fun v => ((s.setReg .a v).setHl x).retire len n)
    (hread : s.readByte a = .ok v) :
    ∃ t, exec i s = .next t ∧ t.regs.a = v ∧ t.hl = x ∧ t.bc = s.bc ∧ t.de = s.de ∧
      s.CpuStep t s.regs.f s.regs.sp (s.regs.pc + BitVec.ofNat 16 len) n :=
  ⟨_, hexec.trans (State.withLoad_ok hread _), rfl, State.hl_setHl (s.setReg .a v) x, rfl, rfl, rfl⟩

/-! ## Stores -/

theorem StoresTo.of_exec (hexec : exec i s = s.withStore a v fun t => t.retire len n) : StoresTo i s a v len n := by
  refine ⟨fun w hwrite => ?_, fun c w hwrite => .store hexec hwrite⟩
  rw [hexec, State.withStore_done hwrite, State.retire_eq, State.writeByte_regs hwrite]
  rfl

/-- A store that then moves HL by `f` (rules R186, R188). -/
theorem stores_movesHl {f : Word → Word} {w : State}
    (hexec : exec i s = s.withStore a v fun t => (t.setHl (f t.hl)).retire len n)
    (hwrite : s.writeByte a v = .done () w) :
    exec i s = .next { w with
      regs := { s.regs with
        h := hiByte (f s.hl), l := loByte (f s.hl), pc := s.regs.pc + BitVec.ofNat 16 len }
      cyc := n } := by
  rw [hexec, State.withStore_done hwrite, State.hl, State.hl, ← State.writeByte_regs hwrite]
  rfl

end

/-- The opcode of LD r,r' (rule R171). -/
theorem bytesAre_ldRR (dst src : Reg8) :
    BytesAre (.ldRR dst src) [64 + 8 * dst.code.toNat + src.code.toNat] := by
  have hclear : ∀ c : BitVec 3, (0x40 ||| atY c) &&& 0x07 = 0 := by decide
  refine bytesAre_cons rfl ?_ rfl
  rw [toNat_or_atZ (hclear _), toNat_or_atY rfl]
  rfl

/-- Settles O5: every load is a read (none for a register or an immediate) followed by an update of the register, and
for the two that move HL of HL as well. -/
theorem loadByteResults : Obligations.LoadByteResults := by
  unfold Obligations.LoadByteResults
  intro s
  refine ⟨fun dst src => ⟨bytesAre_ldRR dst src, s.setReg_retire dst _ 1 4⟩,
    fun r n => ⟨bytesAre_cons rfl (toNat_or_atY rfl _) rfl, s.setReg_retire r n 2 8⟩,
    fun r => ⟨bytesAre_cons rfl (toNat_or_atY rfl _) rfl, .of_exec rfl⟩,
    ⟨rfl, .of_exec rfl⟩, ⟨rfl, .of_exec rfl⟩,
    fun nn => ⟨bytesAre_word rfl rfl, .of_exec rfl⟩,
    fun n => ⟨rfl, highPage_eq n ▸ .of_exec rfl⟩, ⟨rfl, highPage_eq s.regs.c ▸ .of_exec rfl⟩,
    rfl, rfl, fun v hread => ⟨loadsA_movesHl rfl hread, loadsA_movesHl rfl hread⟩,
    fun c hread => ⟨.load rfl hread, .load rfl hread⟩⟩

/-- Settles O6: every store is a write, which leaves the registers alone, followed by the end of the instruction, and
for the two that move HL by an update of HL before it. -/
theorem storeByteResults : Obligations.StoreByteResults := by
  unfold Obligations.StoreByteResults
  intro s
  refine ⟨fun r => ⟨bytesAre_cons rfl (toNat_or_atZ rfl _) rfl, .of_exec rfl⟩,
    fun n => ⟨rfl, .of_exec rfl⟩, ⟨rfl, .of_exec rfl⟩, ⟨rfl, .of_exec rfl⟩,
    fun nn => ⟨bytesAre_word rfl rfl, .of_exec rfl⟩,
    fun n => ⟨rfl, highPage_eq n ▸ .of_exec rfl⟩, ⟨rfl, highPage_eq s.regs.c ▸ .of_exec rfl⟩,
    rfl, rfl, fun w hwrite => ⟨?_, ?_⟩, fun c w hwrite => ⟨.store rfl hwrite, .store rfl hwrite⟩⟩
  · exact stores_movesHl (f := (· + 1)) rfl hwrite
  · exact stores_movesHl (f := (· - 1)) rfl hwrite

end Sys2Proof.Machine
end

section
/-! SUPPORT. Two-byte stores, pushes and pops: what each answers when its two accesses complete and when one of them
raises, and the shapes of the instructions built on them. -/

namespace Sys2Proof.Machine

section
variable {s u w : State} {a v : Word} {lo hi : Byte} {c : Fatal}

/-! ## A word stored (rule R14) -/

theorem State.writeWord_done (h : s.writeByte a (loByte v) = .done () u) :
    s.writeWord a v = u.writeByte (a + 1) (hiByte v) := by
  simp only [State.writeWord, h]

theorem State.writeWord_fatal (h : s.writeByte a (loByte v) = .fatal c u) : s.writeWord a v = .fatal c u := by
  simp only [State.writeWord, h]

theorem State.withStoreWord_done (h : s.writeWord a v = .done () w) (k : State → Result) :
    s.withStoreWord a v k = k w := by
  simp only [State.withStoreWord, h]

theorem State.withStoreWord_fatal (h : s.writeWord a v = .fatal c w) (k : State → Result) :
    s.withStoreWord a v k = .next (w.crash c) := by
  simp only [State.withStoreWord, h]

/-! ## A word pushed (rule R15) -/

theorem State.pushByte_fatal (h : s.writeByte (s.regs.sp - 1) lo = .fatal c u) :
    s.pushByte lo = .fatal c (u.withCpu { s.regs with sp := s.regs.sp - 1 } s.cyc) := by
  rw [State.pushByte_eq, h]
  rfl

theorem State.push16_fatal_high (h : s.writeByte (s.regs.sp - 1) (hiByte v) = .fatal c u) :
    ∃ t, s.push16 v = .fatal c t :=
  ⟨_, by rw [State.push16, State.pushByte_fatal h]⟩

theorem State.push16_fatal_low (hhigh : s.writeByte (s.regs.sp - 1) (hiByte v) = .done () u)
    (hlow : u.writeByte (s.regs.sp - 2) (loByte v) = .fatal c w) : ∃ t, s.push16 v = .fatal c t := by
  have hsp : s.regs.sp - 1 - 1 = s.regs.sp - 2 := by bv_omega
  have hsecond : (u.withCpu { s.regs with sp := s.regs.sp - 1 } s.cyc).writeByte (s.regs.sp - 1 - 1) (loByte v) =
      .fatal c (w.withCpu { s.regs with sp := s.regs.sp - 1 } s.cyc) := by
    rw [State.writeByte_withCpu, hsp, hlow]
    rfl
  exact ⟨_, by simp only [State.push16, State.pushByte_done hhigh]; exact State.pushByte_fatal hsecond⟩

theorem State.withPush_done (h : s.push16 v = .done () w) (k : State → Result) : s.withPush v k = k w := by
  simp only [State.withPush, h]

theorem State.withPush_fatal (h : s.push16 v = .fatal c w) (k : State → Result) :
    s.withPush v k = .next (w.crash c) := by
  simp only [State.withPush, h]

/-! ## A word popped (rule R15) -/

/-- The byte at SP or the one at SP + 1 cannot be read. -/
def State.PopRaises (s : State) (c : Fatal) : Prop :=
  s.readByte s.regs.sp = .error c ∨
    ∃ lo, s.readByte s.regs.sp = .ok lo ∧ s.readByte (s.regs.sp + 1) = .error c

theorem State.PopRaises.pop16 (h : s.PopRaises c) : ∃ t, s.pop16 = .fatal c t := by
  rcases h with hlow | ⟨lo, hlow, hhigh⟩
  · exact ⟨s, by simp only [State.pop16, State.popByte, hlow]⟩
  · have hsecond : (s.setSp (s.regs.sp + 1)).readByte (s.setSp (s.regs.sp + 1)).regs.sp = .error c := hhigh
    exact ⟨s.setSp (s.regs.sp + 1), by simp only [State.pop16, State.popByte, hlow, hsecond]⟩

theorem State.withPop_done (hlow : s.readByte s.regs.sp = .ok lo) (hhigh : s.readByte (s.regs.sp + 1) = .ok hi)
    (k : Word → State → Result) :
    s.withPop k = k (joinBytes hi lo) (s.withCpu { s.regs with sp := s.regs.sp + 2 } s.cyc) := by
  simp only [State.withPop, State.pop16_done hlow hhigh]

theorem State.withPop_fatal (h : s.pop16 = .fatal c w) (k : Word → State → Result) :
    s.withPop k = .next (w.crash c) := by
  simp only [State.withPop, h]

/-! ## Instructions that store a word, push or pop -/

variable {i : Instr}

theorem CrashesWith.storeWord {k : State → Result} (hexec : exec i s = s.withStoreWord a v k)
    (h : s.writeWord a v = .fatal c w) : CrashesWith i s c :=
  ⟨_, hexec.trans (State.withStoreWord_fatal h k), rfl⟩

theorem CrashesWith.push {k : State → Result} (hexec : exec i s = s.withPush v k)
    (h : ∃ t, s.push16 v = .fatal c t) : CrashesWith i s c :=
  let ⟨_, hpush⟩ := h
  ⟨_, hexec.trans (State.withPush_fatal hpush k), rfl⟩

theorem CrashesWith.pop {k : Word → State → Result} (hexec : exec i s = s.withPop k) (h : s.PopRaises c) :
    CrashesWith i s c :=
  let ⟨_, hpop⟩ := h.pop16
  ⟨_, hexec.trans (State.withPop_fatal hpop k), rfl⟩

/-- An instruction that pushes `v` and whose last act sets PC. -/
theorem PushesThen.of_exec {k : State → Result} {pc : Word} {n : Nat} (hexec : exec i s = s.withPush v k)
    (hk : ∀ t, t.regs = { s.regs with sp := s.regs.sp - 2 } → k t = .next (t.withCpu { t.regs with pc := pc } n)) :
    PushesThen i s v pc n := by
  refine ⟨fun u w hhigh hlow => ?_, fun c u hhigh => .push hexec (State.push16_fatal_high hhigh),
    fun c u w hhigh hlow => .push hexec (State.push16_fatal_low hhigh hlow)⟩
  rw [hexec, State.withPush_done (State.push16_done hhigh hlow), hk _ rfl]
  rfl

end

end Sys2Proof.Machine
end

section
/-! SUPPORT. The 16-bit loads and sums and the stack instructions: what an update of a pair leaves alone, and the
displacement and the flags of rules R203, R265 and R268 as numbers. -/

namespace Sys2Proof

/-- A code at `op[5:4]` counts sixteen times (rule R144). -/
theorem toNat_or_atP {pat : Byte} (hpat : pat &&& 0x30 = 0) (c : BitVec 2) :
    (pat ||| atP c).toNat = pat.toNat + 16 * c.toNat := by
  have hfield : ∀ c : BitVec 2, 0x30 &&& atP c = atP c ∧ (atP c).toNat = 16 * c.toNat := by decide
  rw [toNat_or_of_masked hpat (hfield c).1, (hfield c).2]

theorem loByte_eq_ofNat (v : Word) : loByte v = BitVec.ofNat 8 (v.toNat % 256) :=
  BitVec.eq_of_toNat_eq ((toNat_lowByte v).trans (by simp))

theorem hiByte_eq_ofNat (v : Word) : hiByte v = BitVec.ofNat 8 (v.toNat / 256) :=
  BitVec.eq_of_toNat_eq ((toNat_highByte v).trans (by rw [BitVec.toNat_ofNat]; omega))

/-- A displacement added to a word is added as a signed number. -/
theorem add_sext16 (v : Word) (e : Byte) : v + sext16 e = BitVec.ofInt 16 ((v.toNat : Int) + e.toInt) := by
  rw [BitVec.ofInt_add, BitVec.ofInt_natCast, BitVec.ofNat_toNat, BitVec.setWidth_eq]
  rfl

/-- A displacement widened to a word, as an unsigned number. -/
theorem toNat_sext16 (e : Byte) : (sext16 e).toNat = if e.toNat < 128 then e.toNat else e.toNat + 0xFF00 := by
  revert e; decide +kernel

theorem add_eq_ofNat_mod (x y : Word) : x + y = BitVec.ofNat 16 ((x.toNat + y.toNat) % 65536) :=
  BitVec.eq_of_toNat_eq (by simp)

end Sys2Proof

namespace Sys2Proof.Machine

/-! ## Pairs (rule R20) -/

theorem State.rr_setRr_other (s : State) {p q : PairRR} (h : q ≠ p) (v : Word) : (s.setRr p v).rr q = s.rr q := by
  cases p with
  | bc => cases q with
    | bc => exact absurd rfl h
    | de | hl | sp => rfl
  | de => cases q with
    | de => exact absurd rfl h
    | bc | hl | sp => rfl
  | hl => cases q with
    | hl => exact absurd rfl h
    | bc | de | sp => rfl
  | sp => cases q with
    | sp => exact absurd rfl h
    | bc | de | hl => rfl

/-- An instruction whose last act puts a word into a pair. -/
theorem State.setRr_retire (s : State) (p : PairRR) (v : Word) (len n : Nat) :
    ∃ t, (s.setRr p v).retire len n = .next t ∧ s.OnlyPair t p v ∧
      s.CpuStep t s.regs.f t.regs.sp (s.regs.pc + BitVec.ofNat 16 len) n := by
  refine ⟨_, rfl, ⟨s.rr_setRr p v, fun q hq => s.rr_setRr_other hq v, ?_⟩, ?_⟩
  · cases p <;> rfl
  · cases p <;> rfl

section
variable (s : State) (hi lo : Byte)

theorem State.setBc_joinBytes : s.setBc (joinBytes hi lo) = { s with regs := { s.regs with b := hi, c := lo } } := by
  rw [State.setBc, hiByte_joinBytes, loByte_joinBytes]
  rfl

theorem State.setDe_joinBytes : s.setDe (joinBytes hi lo) = { s with regs := { s.regs with d := hi, e := lo } } := by
  rw [State.setDe, hiByte_joinBytes, loByte_joinBytes]
  rfl

theorem State.setHl_joinBytes : s.setHl (joinBytes hi lo) = { s with regs := { s.regs with h := hi, l := lo } } := by
  rw [State.setHl, hiByte_joinBytes, loByte_joinBytes]
  rfl

theorem State.setAf_joinBytes :
    s.setAf (joinBytes hi lo) = { s with regs := { s.regs with a := hi, f := lo &&& 0xF0 } } := by
  rw [State.setAf, hiByte_joinBytes, loByte_joinBytes]
  rfl

end

/-! ## Flags -/

/-- Rule R206: of a byte loaded into F the four flags stay. -/
theorem flagsAre_highNibble (v : Byte) :
    FlagsAre (v &&& 0xF0) (v.getLsbD 7) (v.getLsbD 6) (v.getLsbD 5) (v.getLsbD 4) := by
  revert v; decide +kernel

/-! ## The instructions -/

/-- Settles O8: the instruction is two writes, which leave the registers alone, and crashes where either raises. -/
theorem storeStackPointerResult : Obligations.StoreStackPointerResult := by
  unfold Obligations.StoreStackPointerResult
  intro s nn
  rw [← loByte_eq_ofNat, ← hiByte_eq_ofNat]
  refine ⟨bytesAre_word rfl rfl, fun u w hlow hhigh => ?_,
    fun c u hlow => .storeWord rfl (State.writeWord_fatal hlow),
    fun c u w hlow hhigh => .storeWord rfl ((State.writeWord_done hlow).trans hhigh)⟩
  have hregs : w.regs = s.regs := (State.writeByte_regs hhigh).trans (State.writeByte_regs hlow)
  have hexec : exec (.ldNnSp nn) s = w.retire 3 20 :=
    State.withStoreWord_done ((State.writeWord_done hlow).trans hhigh) _
  rw [hexec, State.retire_eq, hregs]
  rfl

/-- Settles O9: the sums are additions of words (`add_sext16`, `add_eq_ofNat_mod`), and the flags are packed from the
carries of the form that SP_E_FLAGS selects. -/
theorem sixteenBitAdditionResults : Obligations.SixteenBitAdditionResults := by
  unfold Obligations.SixteenBitAdditionResults
  intro s e sum wide h c
  have hsum : sum = s.regs.sp + sext16 e := (add_sext16 s.regs.sp e).symm
  have hcarries : spCarries s.params.spEFlags s.regs.sp e = (h, c) := by
    unfold h c
    cases s.params.spEFlags with
    | byte => rfl
    | word => simp only [spCarries, wordCarries, toNat_sext16, wide]
  have hflags : ∀ t : State, t.params = s.params → t.setSpFlags s.regs.sp e = t.setFlags false false h c := by
    intro t ht
    rw [State.setSpFlags, ht, hcarries]
  have hbits := packFlags_bits false false h c
  refine ⟨rfl, rfl, ⟨_, hbits, ?_⟩, ⟨_, hbits, ?_⟩, fun p => ?_⟩
  · rw [hsum]
    exact congrArg (State.retire · 2 12) (hflags (s.setHl (s.regs.sp + sext16 e)) rfl)
  · rw [hsum]
    exact congrArg (State.retire · 2 16) (hflags (s.setSp (s.regs.sp + sext16 e)) rfl)
  · refine ⟨bytesAre_cons rfl (toNat_or_atP rfl _) rfl, _, packFlags_bits _ _ _ _, ?_⟩
    rw [← add_eq_ofNat_mod]
    rfl

/-- Settles O10: each form is a push of its pair followed by the end of the instruction. -/
theorem pushResults : Obligations.PushResults := by
  unfold Obligations.PushResults
  intro s
  have hpush (q : PairQQ) : PushesThen (.pushQq q) s (s.qq q) (s.regs.pc + 1) 16 :=
    .of_exec rfl fun t ht => by rw [State.retire_eq, ht]; rfl
  exact ⟨rfl, rfl, rfl, rfl, hpush .bc, hpush .de, hpush .hl, hpush .af⟩

/-- Settles O11: each form is a pop followed by an update of its pair, whose two bytes are the ones read. -/
theorem popResults : Obligations.PopResults := by
  unfold Obligations.PopResults
  intro s
  refine ⟨rfl, rfl, rfl, rfl, fun lo hi hlow hhigh => ⟨?_, ?_, ?_, _, flagsAre_highNibble lo, ?_⟩,
    fun c hraises => ⟨fun q => .pop rfl hraises, .pop rfl hraises⟩⟩
  · exact (State.withPop_done hlow hhigh _).trans (congrArg (State.retire · 1 12) (State.setBc_joinBytes _ hi lo))
  · exact (State.withPop_done hlow hhigh _).trans (congrArg (State.retire · 1 12) (State.setDe_joinBytes _ hi lo))
  · exact (State.withPop_done hlow hhigh _).trans (congrArg (State.retire · 1 12) (State.setHl_joinBytes _ hi lo))
  · exact (State.withPop_done hlow hhigh _).trans (congrArg (State.retire · 1 12) (State.setAf_joinBytes _ hi lo))

/-- Settles O7: each form ends with an update of one pair (`State.setRr_retire`). -/
theorem pairRegisterResults : Obligations.PairRegisterResults := by
  unfold Obligations.PairRegisterResults
  intro s
  refine ⟨fun p nn => ⟨bytesAre_word rfl (toNat_or_atP rfl _), s.setRr_retire p nn 3 12⟩, ⟨rfl, rfl⟩,
    fun p => ⟨bytesAre_cons rfl (toNat_or_atP rfl _) rfl, s.setRr_retire p _ 1 8⟩,
    fun p => ⟨bytesAre_cons rfl (toNat_or_atP rfl _) rfl, s.setRr_retire p _ 1 8⟩⟩

end Sys2Proof.Machine
end

section
/-! SUPPORT. The 8-bit arithmetic and logic instructions: the helpers of rules R215, R241, R243 and R245 as numbers, and
the instructions by the shape of their meaning: an operand, one helper, its byte and its flags written. -/

namespace Sys2Proof.Machine

/-! ## The helpers as numbers -/

section
variable (a b v : Byte) (cin h c : Bool)

theorem ofNat_eq_zero_iff_mod (x : Nat) : BitVec.ofNat 8 x = 0 ↔ x % 256 = 0 := by
  rw [← BitVec.toNat_inj, BitVec.toNat_ofNat]
  rfl

theorem ofInt_eq_ofNat_mod (d : Int) : BitVec.ofInt 8 d = BitVec.ofNat 8 (d % 256).toNat := by
  refine BitVec.eq_of_toNat_eq ?_
  rw [BitVec.toNat_ofInt, BitVec.toNat_ofNat]
  omega

theorem ofInt_eq_zero_iff_mod (d : Int) : BitVec.ofInt 8 d = 0 ↔ d % 256 = 0 := by
  rw [ofInt_eq_ofNat_mod, ofNat_eq_zero_iff_mod]
  omega

theorem ofNat_mod_byte (x : Nat) : BitVec.ofNat 8 (x % 256) = BitVec.ofNat 8 x :=
  BitVec.eq_of_toNat_eq (by simp)

theorem add8_eq : add8 a b cin =
    { res := BitVec.ofNat 8 ((a.toNat + b.toNat + cin.toNat) % 256)
      z := decide ((a.toNat + b.toNat + cin.toNat) % 256 = 0)
      n := false
      h := decide (15 < a.toNat % 16 + b.toNat % 16 + cin.toNat)
      c := decide (255 < a.toNat + b.toNat + cin.toNat) } := by
  simp only [add8, ofNat_mod_byte, ofNat_eq_zero_iff_mod]

/-- The borrows of rule R215 are comparisons. -/
theorem sub8_eq : sub8 a b cin =
    { res := BitVec.ofInt 8 ((a.toNat : Int) - b.toNat - cin.toNat)
      z := decide (((a.toNat : Int) - b.toNat - cin.toNat) % 256 = 0)
      n := true
      h := decide (a.toNat % 16 < b.toNat % 16 + cin.toNat)
      c := decide (a.toNat < b.toNat + cin.toNat) } := by
  have hhalf : ((a.toNat % 16 : Nat) : Int) - (b.toNat % 16 : Nat) - cin.toNat < 0 ↔
      a.toNat % 16 < b.toNat % 16 + cin.toNat := by omega
  have hborrow : (a.toNat : Int) - b.toNat - cin.toNat < 0 ↔ a.toNat < b.toNat + cin.toNat := by omega
  simp only [sub8, ofInt_eq_zero_iff_mod, hhalf, hborrow]

/-- Without a borrow in, Z says that the operands are equal. -/
theorem sub8_noBorrow : sub8 a b false =
    { res := BitVec.ofInt 8 ((a.toNat : Int) - b.toNat)
      z := decide (a = b)
      n := true
      h := decide (a.toNat % 16 < b.toNat % 16)
      c := decide (a.toNat < b.toNat) } := by
  have hequal : ((a.toNat : Int) - b.toNat) % 256 = 0 ↔ a = b := by
    have ha := a.isLt
    have hb := b.isLt
    rw [← BitVec.toNat_inj]
    omega
  simp only [sub8_eq, Bool.toNat_false, Nat.cast_zero, Int.sub_zero, Nat.add_zero, hequal]

theorem xor8_eq : xor8 a b = { res := a ^^^ b, z := decide (a = b), n := false, h := false, c := false } := by
  have hzero : a ^^^ b = 0 ↔ a = b := BitVec.xor_eq_zero_iff
  simp only [xor8, hzero]

theorem or8_eq :
    or8 a b = { res := a ||| b, z := decide (a = 0 ∧ b = 0), n := false, h := false, c := false } := by
  have hzero : a ||| b = 0 ↔ a = 0 ∧ b = 0 := BitVec.or_eq_zero_iff
  simp only [or8, hzero]

theorem inc8_eq : inc8 v = BitVec.ofNat 8 ((v.toNat + 1) % 256) :=
  (ofNat_mod_byte _).symm

theorem inc8_eq_zero_iff : inc8 v = 0 ↔ v.toNat = 255 := by
  have hv := v.isLt
  rw [inc8, ofNat_eq_zero_iff_mod]
  omega

theorem dec8_eq : dec8 v = BitVec.ofNat 8 ((v.toNat + 255) % 256) := by
  rw [dec8, ofInt_eq_ofNat_mod]
  congr 1
  omega

theorem dec8_eq_zero_iff : dec8 v = 0 ↔ v.toNat = 1 := by
  have hv := v.isLt
  rw [dec8, ofInt_eq_zero_iff_mod]
  omega

/-- DAA after an addition (rule R245). -/
theorem daaOut_add : daaOut a false h c =
    { res := BitVec.ofNat 8 ((a.toNat + daaAddAdjust a h c) % 256)
      z := decide ((a.toNat + daaAddAdjust a h c) % 256 = 0)
      n := false
      h := false
      c := decide (c = true ∨ 0x99 < a.toNat) } := by
  simp only [daaOut, Bool.false_eq_true, if_false, ofNat_mod_byte, ofNat_eq_zero_iff_mod, Bool.decide_or,
    Bool.decide_eq_true]

theorem daaSubAdjust_le : daaSubAdjust h c ≤ 0x66 := by
  revert h c; decide

/-- DAA after a subtraction (rule R245). -/
theorem daaOut_sub : daaOut a true h c =
    { res := BitVec.ofNat 8 ((a.toNat + 512 - daaSubAdjust h c) % 256)
      z := decide ((a.toNat + 512 - daaSubAdjust h c) % 256 = 0)
      n := true
      h := false
      c := c } := by
  have hle := daaSubAdjust_le h c
  have hres : BitVec.ofInt 8 ((a.toNat : Int) - daaSubAdjust h c) =
      BitVec.ofNat 8 ((a.toNat + 512 - daaSubAdjust h c) % 256) := by
    rw [ofInt_eq_ofNat_mod]
    congr 1
    omega
  simp only [daaOut, if_true, hres, ofNat_mod_byte, ofNat_eq_zero_iff_mod]

theorem xor_ff_eq : a ^^^ 0xFF = BitVec.ofNat 8 (255 - a.toNat) := by
  refine BitVec.eq_of_toNat_eq ?_
  have hnot : a ^^^ 0xFF = ~~~a := BitVec.xor_allOnes
  rw [hnot, BitVec.toNat_not, BitVec.toNat_ofNat]
  omega

end

/-! ## Instructions that write A and the flags -/

section
variable {i : Instr} {s : State} {v : Byte} {z n h c : Bool} {len cycles : Nat}

theorem GivesA.of_exec {a : Byte} {o : AluOut} (hexec : exec i s = (s.setAluA o).retire len cycles)
    (ho : o = { res := a, z := z, n := n, h := h, c := c }) : GivesA i s a z n h c len cycles := by
  subst ho
  exact ⟨_, packFlags_bits z n h c, hexec⟩

/-- What ADD and ADC do (rules R217 to R222), whatever the form of the operand. -/
theorem givesA_add {cin : Bool} (hexec : exec i s = (s.setAluA (add8 s.regs.a v cin)).retire len cycles) :
    GivesA i s (BitVec.ofNat 8 ((s.regs.a.toNat + v.toNat + cin.toNat) % 256))
      (decide ((s.regs.a.toNat + v.toNat + cin.toNat) % 256 = 0)) false
      (decide (15 < s.regs.a.toNat % 16 + v.toNat % 16 + cin.toNat))
      (decide (255 < s.regs.a.toNat + v.toNat + cin.toNat)) len cycles :=
  .of_exec hexec (add8_eq _ _ _)

/-- What SUB and SBC do (rules R223 to R228), whatever the form of the operand. -/
theorem givesA_sub {cin : Bool} (hexec : exec i s = (s.setAluA (sub8 s.regs.a v cin)).retire len cycles) :
    GivesA i s (BitVec.ofInt 8 ((s.regs.a.toNat : Int) - v.toNat - cin.toNat))
      (decide (((s.regs.a.toNat : Int) - v.toNat - cin.toNat) % 256 = 0)) true
      (decide (s.regs.a.toNat % 16 < v.toNat % 16 + cin.toNat))
      (decide (s.regs.a.toNat < v.toNat + cin.toNat)) len cycles :=
  .of_exec hexec (sub8_eq _ _ _)

/-- What CP does (rules R238 to R240): the flags of a subtraction without a borrow in, beside the old A. -/
theorem givesA_cp (hexec : exec i s = (s.setAluFlags (sub8 s.regs.a v false)).retire len cycles) :
    GivesA i s s.regs.a (decide (s.regs.a = v)) true (decide (s.regs.a.toNat % 16 < v.toNat % 16))
      (decide (s.regs.a.toNat < v.toNat)) len cycles := by
  rw [sub8_noBorrow] at hexec
  exact .of_exec (o := ⟨s.regs.a, _, _, _, _⟩) hexec rfl

end

/-! ## INC and DEC -/

section
variable {i : Instr} {s : State} {r : Reg8} {v : Byte} {z n h c : Bool} {len cycles : Nat}

/-- An instruction that writes a register and the flags. -/
theorem GivesReg.of_exec (hexec : exec i s = ((s.setReg r v).setFlags z n h c).retire len cycles) :
    GivesReg i s r v z n h c len cycles := by
  refine ⟨_, _, hexec, packFlags_bits z n h c, ⟨?_, fun q hq => ?_⟩, ?_⟩
  · simp
  · simpa using s.reg_setReg_other hq v
  · cases r <;> rfl

/-- A read-modify-write at HL that then writes flags of the byte read; the write leaves the registers alone. -/
theorem ModifiesHl.of_exec {g : Byte → Byte} {k : Byte → State → Result} {z n h c : Byte → Bool}
    (hexec : exec i s = s.modifyHl g k)
    (hk : ∀ v t, t.regs = s.regs → k v t = (t.setFlags (z v) (n v) (h v) (c v)).retire len cycles) :
    ModifiesHl i s g (fun v f => FlagsAre f (z v) (n v) (h v) (c v)) len cycles := by
  refine ⟨fun v w hread hwrite => ⟨_, packFlags_bits (z v) (n v) (h v) (c v), ?_⟩, fun c hread => .load hexec hread,
    fun v c w hread hwrite => ?_⟩
  · have hregs := State.writeByte_regs hwrite
    rw [hexec, State.modifyHl, State.withLoad_ok hread, State.withStore_done hwrite, hk v w hregs, State.retire_eq,
      State.setFlags_regs, hregs]
    rfl
  · exact .store (hexec.trans (State.withLoad_ok hread _)) hwrite

end

/-- Rule R241's flags, from a state that holds the same F as `s`. -/
theorem State.setIncFlags_eq {s t : State} (hf : t.regs.f = s.regs.f) (v : Byte) :
    t.setIncFlags v =
      t.setFlags (decide (v.toNat = 255)) false (decide (v.toNat % 16 = 15)) (s.regs.f.getLsbD 4) := by
  simp only [State.setIncFlags, inc8_eq_zero_iff, State.fc, bitOf, hf]

/-- Rule R243's flags, from a state that holds the same F as `s`. -/
theorem State.setDecFlags_eq {s t : State} (hf : t.regs.f = s.regs.f) (v : Byte) :
    t.setDecFlags v =
      t.setFlags (decide (v.toNat = 1)) true (decide (v.toNat % 16 = 0)) (s.regs.f.getLsbD 4) := by
  simp only [State.setDecFlags, dec8_eq_zero_iff, State.fc, bitOf, hf]

/-! ## The obligations -/

/-- Settles O12: every form is one sum (`givesA_add`), of the register, of the byte read or of the immediate. -/
theorem addResults : Obligations.AddResults := by
  unfold Obligations.AddResults
  intro s v a cin gives
  have hadd {i len cycles} (h : exec i s = (s.setAluA (add8 a v false)).retire len cycles) :
      gives i 0 len cycles := givesA_add h
  have hadc {i len cycles} (h : exec i s = (s.setAluA (add8 a v s.fc)).retire len cycles) :
      gives i cin len cycles := givesA_add h
  refine ⟨fun r => ⟨bytesAre_cons rfl (toNat_or_atZ rfl _) rfl, bytesAre_cons rfl (toNat_or_atZ rfl _) rfl, ?_⟩,
    ⟨rfl, rfl, fun hread => ⟨hadd (State.withLoad_ok hread _), hadc (State.withLoad_ok hread _)⟩,
      fun c hread => ⟨.load rfl hread, .load rfl hread⟩⟩,
    rfl, rfl, hadd rfl, hadc rfl⟩
  rintro rfl
  exact ⟨hadd rfl, hadc rfl⟩

/-- Settles O13: every form is one difference (`givesA_sub`), of the register, of the byte read or of the immediate. -/
theorem subtractResults : Obligations.SubtractResults := by
  unfold Obligations.SubtractResults
  intro s v a cin gives
  have hsub {i len cycles} (h : exec i s = (s.setAluA (sub8 a v false)).retire len cycles) :
      gives i 0 len cycles := givesA_sub h
  have hsbc {i len cycles} (h : exec i s = (s.setAluA (sub8 a v s.fc)).retire len cycles) :
      gives i cin len cycles := givesA_sub h
  refine ⟨fun r => ⟨bytesAre_cons rfl (toNat_or_atZ rfl _) rfl, bytesAre_cons rfl (toNat_or_atZ rfl _) rfl, ?_⟩,
    ⟨rfl, rfl, fun hread => ⟨hsub (State.withLoad_ok hread _), hsbc (State.withLoad_ok hread _)⟩,
      fun c hread => ⟨.load rfl hread, .load rfl hread⟩⟩,
    rfl, rfl, hsub rfl, hsbc rfl⟩
  rintro rfl
  exact ⟨hsub rfl, hsbc rfl⟩

/-- Settles O15: every form is one comparison (`givesA_cp`). -/
theorem compareResults : Obligations.CompareResults := by
  unfold Obligations.CompareResults
  intro s v a gives
  refine ⟨fun r => ⟨bytesAre_cons rfl (toNat_or_atZ rfl _) rfl, ?_⟩,
    ⟨rfl, fun hread => givesA_cp (State.withLoad_ok hread _), fun c hread => .load rfl hread⟩,
    rfl, givesA_cp rfl⟩
  rintro rfl
  exact givesA_cp rfl

/-- Settles O16: the register counts, and the flags are those of the old value and the old carry. -/
theorem incDecRegisterResults : Obligations.IncDecRegisterResults := by
  unfold Obligations.IncDecRegisterResults
  intro s r v
  refine ⟨bytesAre_cons rfl (toNat_or_atY rfl _) rfl, bytesAre_cons rfl (toNat_or_atY rfl _) rfl, ?_, ?_⟩
  · rw [← inc8_eq]
    exact .of_exec (congrArg (State.retire · 1 4) (State.setIncFlags_eq (State.setReg_regs_f s r _) _))
  · rw [← dec8_eq]
    exact .of_exec (congrArg (State.retire · 1 4) (State.setDecFlags_eq (State.setReg_regs_f s r _) _))

/-- Settles O17: a read-modify-write at HL with the register forms' count and flags. -/
theorem incDecMemoryResults : Obligations.IncDecMemoryResults := by
  unfold Obligations.IncDecMemoryResults
  intro s
  simp only [← inc8_eq, ← dec8_eq]
  refine ⟨rfl, rfl, .of_exec rfl fun v t ht => ?_, .of_exec rfl fun v t ht => ?_⟩
  · rw [State.setIncFlags_eq (congrArg Regs.f ht)]
  · rw [State.setDecFlags_eq (congrArg Regs.f ht)]

/-- Settles O18: the two branches of rule R245, by N. -/
theorem decimalAdjustResult : Obligations.DecimalAdjustResult := by
  unfold Obligations.DecimalAdjustResult
  intro s a n h c low high res
  refine ⟨rfl, .of_exec (o := daaOut s.regs.a n h c) rfl ?_⟩
  clear_value n h c
  cases n with
  | false =>
    have hadjust : low + high = daaAddAdjust s.regs.a h c := by simp [low, high, daaAddAdjust, a]
    have hres : res = (a + daaAddAdjust s.regs.a h c) % 256 := by rw [← hadjust, ← Nat.add_assoc]; rfl
    rw [daaOut_add, hres]
    simp [a]
  | true =>
    have hadjust : low + high = daaSubAdjust h c := by simp [low, high, daaSubAdjust]
    have hres : res = (a + 512 - daaSubAdjust h c) % 256 := by rw [← hadjust]; rfl
    rw [daaOut_sub, hres]
    simp [a]

/-- Settles O14: every form is one bitwise operation, of the register, of the byte read or of the immediate. -/
theorem logicResults : Obligations.LogicResults := by
  unfold Obligations.LogicResults
  intro s v a ands xors ors
  have hand {i len cycles} (h : exec i s = (s.setAluA (and8 a v)).retire len cycles) : ands i len cycles :=
    .of_exec h rfl
  have hxor {i len cycles} (h : exec i s = (s.setAluA (xor8 a v)).retire len cycles) : xors i len cycles :=
    .of_exec h (xor8_eq a v)
  have hor {i len cycles} (h : exec i s = (s.setAluA (or8 a v)).retire len cycles) : ors i len cycles :=
    .of_exec h (or8_eq a v)
  refine ⟨fun r => ⟨bytesAre_cons rfl (toNat_or_atZ rfl _) rfl, bytesAre_cons rfl (toNat_or_atZ rfl _) rfl,
      bytesAre_cons rfl (toNat_or_atZ rfl _) rfl, ?_⟩,
    ⟨rfl, rfl, rfl, fun hread => ⟨hand (State.withLoad_ok hread _), hxor (State.withLoad_ok hread _),
        hor (State.withLoad_ok hread _)⟩,
      fun c hread => ⟨.load rfl hread, .load rfl hread, .load rfl hread⟩⟩,
    rfl, rfl, rfl, hand rfl, hxor rfl, hor rfl⟩
  rintro rfl
  exact ⟨hand rfl, hxor rfl, hor rfl⟩

/-- Settles O19: each writes A (SCF and CCF its old value) and the flags. -/
theorem complementAndCarryResults : Obligations.ComplementAndCarryResults := by
  unfold Obligations.ComplementAndCarryResults
  intro s z c
  rw [← xor_ff_eq]
  exact ⟨rfl, .of_exec (o := ⟨s.regs.a ^^^ 0xFF, z, true, true, c⟩) rfl rfl,
    rfl, .of_exec (o := ⟨s.regs.a, z, false, false, true⟩) rfl rfl,
    rfl, .of_exec (o := ⟨s.regs.a, z, false, false, !c⟩) rfl rfl⟩

end Sys2Proof.Machine
end

section
/-! SUPPORT. The rotate, shift and bit instructions: the helpers of rule R275 as numbers (all but SWAP are RL or RR with
some bit entering), the single-bit masks bit by bit, and the instructions by the shape of their meaning. -/

namespace Sys2Proof

/-- The second byte of a single-bit instruction: the bit at `op[5:3]`, the register at `op[2:0]` (rule R150). -/
theorem toNat_or_atY_or_atZ {pat : Byte} (hy : pat &&& 0x38 = 0) (hz : pat &&& 0x07 = 0) (b c : BitVec 3) :
    (pat ||| atY b ||| atZ c).toNat = pat.toNat + 8 * b.toNat + c.toNat := by
  have hbit : ∀ b : BitVec 3, atY b &&& 0x07 = 0#8 := by decide
  have hclear : (pat ||| atY b) &&& 0x07 = 0 := by rw [BitVec.and_or_distrib_right, hz, hbit]; rfl
  rw [toNat_or_atZ hclear, toNat_or_atY hy]

end Sys2Proof

namespace Sys2Proof.Machine

/-- The bytes of an extended instruction (rule R150). -/
theorem bytesAre_extended {i : Instr} {op : Byte} {k : Nat} (henc : encode i = [0xCB, op]) (hop : op.toNat = k) :
    BytesAre i [0xCB, k] :=
  bytesAre_cons henc rfl (congrArg ([·]) hop)

/-! ## Bits as numbers -/

section
variable (v : Byte) (b : Bool)

theorem toNat_bitOf_seven : (bitOf v 7).toNat = v.toNat / 128 := by
  have hv := v.isLt
  have hbit : (bitOf v 7).toNat = v.toNat / 2 ^ 7 % 2 := Nat.toNat_testBit v.toNat 7
  omega

theorem toNat_bitOf_zero : (bitOf v 0).toNat = v.toNat % 2 := by
  have hbit : (bitOf v 0).toNat = v.toNat / 2 ^ 0 % 2 := Nat.toNat_testBit v.toNat 0
  omega

theorem bitOf_seven_eq : bitOf v 7 = decide (128 ≤ v.toNat) :=
  (BitVec.msb_eq_getLsbD_last v).symm.trans (BitVec.msb_eq_decide v)

theorem bitOf_zero_eq : bitOf v 0 = decide (v.toNat % 2 = 1) := Nat.testBit_zero v.toNat

theorem bitByte_masked : 0x01 &&& bitByte b = bitByte b ∧ (bitByte b).toNat = b.toNat := by
  revert b; decide

theorem bitByte_shifted_masked :
    0x80 &&& (bitByte b <<< 7) = bitByte b <<< 7 ∧ (bitByte b <<< 7).toNat = 128 * b.toNat := by
  revert b; decide

end

/-! ## Rotates and shifts as numbers (rule R275) -/

/-- A rotate or shift gives the byte `res` and the bit `c` shifted out. -/
structure ShiftsTo (out : Byte × Bool) (res : Nat) (c : Bool) : Prop where
  byte : out.1.toNat = res
  bit : out.2 = c

section
variable (v : Byte) (c : Bool)

theorem rl_shiftsTo : ShiftsTo (rl v c) (2 * v.toNat % 256 + c.toNat) (decide (128 ≤ v.toNat)) where
  byte := by
    have hclear : v <<< 1 &&& 0x01 = 0#8 := by revert v; decide +kernel
    obtain ⟨hmask, hc⟩ := bitByte_masked c
    rw [rl, toNat_or_of_masked hclear hmask, hc, BitVec.toNat_shiftLeft, Nat.shiftLeft_eq, Nat.mul_comm]
  bit := bitOf_seven_eq v

theorem rr_shiftsTo : ShiftsTo (rr v c) (v.toNat / 2 + 128 * c.toNat) (decide (v.toNat % 2 = 1)) where
  byte := by
    have hclear : v >>> 1 &&& 0x80 = 0#8 := by revert v; decide +kernel
    obtain ⟨hmask, hc⟩ := bitByte_shifted_masked c
    rw [rr, toNat_or_of_masked hclear hmask, hc, BitVec.toNat_ushiftRight, Nat.shiftRight_eq_div_pow]
  bit := bitOf_zero_eq v

/-- RLC is RL with the byte's own bit 7 entering. -/
theorem rlc_shiftsTo : ShiftsTo (rlc v) (2 * v.toNat % 256 + v.toNat / 128) (decide (128 ≤ v.toNat)) := by
  have h := rl_shiftsTo v (bitOf v 7)
  rw [toNat_bitOf_seven] at h
  exact h

/-- RRC is RR with the byte's own bit 0 entering. -/
theorem rrc_shiftsTo : ShiftsTo (rrc v) (v.toNat / 2 + 128 * (v.toNat % 2)) (decide (v.toNat % 2 = 1)) := by
  have h := rr_shiftsTo v (bitOf v 0)
  rw [toNat_bitOf_zero] at h
  exact h

/-- SLA is RL with 0 entering. -/
theorem sla_shiftsTo : ShiftsTo (sla v) (2 * v.toNat % 256) (decide (128 ≤ v.toNat)) := by
  have hrl : sla v = rl v false := congrArg (·, bitOf v 7) BitVec.or_zero.symm
  rw [hrl]
  exact rl_shiftsTo v false

/-- SRL is RR with 0 entering. -/
theorem srl_shiftsTo : ShiftsTo (srl v) (v.toNat / 2) (decide (v.toNat % 2 = 1)) := by
  have hrr : srl v = rr v false := congrArg (·, bitOf v 0) BitVec.or_zero.symm
  rw [hrr]
  exact rr_shiftsTo v false

/-- SRA is RR with the byte's own bit 7 entering. -/
theorem sra_shiftsTo : ShiftsTo (sra v) (v.toNat / 2 + 128 * (v.toNat / 128)) (decide (v.toNat % 2 = 1)) := by
  have hsign : v &&& 0x80 = bitByte (bitOf v 7) <<< 7 := by revert v; decide +kernel
  have hrr : sra v = rr v (bitOf v 7) := congrArg (fun x => (v >>> 1 ||| x, bitOf v 0)) hsign
  rw [hrr, ← toNat_bitOf_seven]
  exact rr_shiftsTo v (bitOf v 7)

theorem swap_shiftsTo : ShiftsTo (swap v) (16 * v.toNat % 256 + v.toNat / 16) false where
  byte := by
    have hclear : v <<< 4 &&& 0x0F = 0#8 := by revert v; decide +kernel
    have hmask : 0x0F &&& v >>> 4 = v >>> 4 := by revert v; decide +kernel
    rw [swap, toNat_or_of_masked hclear hmask, BitVec.toNat_shiftLeft, Nat.shiftLeft_eq, Nat.mul_comm,
      BitVec.toNat_ushiftRight, Nat.shiftRight_eq_div_pow]
  bit := rfl

end

/-! ## Instructions that rotate or shift -/

section
variable {out : Byte × Bool} {res : Nat} {c : Bool} {i : Instr} {s : State}

theorem ShiftsTo.ofNat_eq (h : ShiftsTo out res c) : BitVec.ofNat 8 res = out.1 := by
  rw [← h.byte, BitVec.ofNat_toNat, BitVec.setWidth_eq]

theorem ShiftsTo.eq_zero_iff (h : ShiftsTo out res c) : out.1 = 0 ↔ res = 0 := by
  rw [← h.byte, ← BitVec.toNat_inj]
  rfl

theorem ShiftsTo.setShiftFlags_eq (h : ShiftsTo out res c) (t : State) :
    t.setShiftFlags out = t.setFlags (decide (res = 0)) false false c := by
  simp only [State.setShiftFlags, h.eq_zero_iff, h.bit]

/-- What the accumulator rotates do (rules R276 to R279). -/
theorem givesA_rotate (hexec : exec i s = s.rotateA out) (h : ShiftsTo out res c) :
    GivesA i s (BitVec.ofNat 8 res) false false false c 1 4 :=
  .of_exec (o := ⟨out.1, false, false, false, out.2⟩) hexec (by rw [h.ofNat_eq, h.bit])

/-- What the extended rotates and shifts of a register do (rule R280 and the like). -/
theorem givesReg_shift {r : Reg8} (hexec : exec i s = s.shiftReg r out) (h : ShiftsTo out res c) :
    GivesReg i s r (BitVec.ofNat 8 res) (decide (res = 0)) false false c 2 8 := by
  rw [h.ofNat_eq]
  exact .of_exec (hexec.trans (congrArg (State.retire · 2 8) (h.setShiftFlags_eq _)))

/-- What the extended rotates and shifts of the byte at HL do (rule R281 and the like). -/
theorem modifiesHl_shift {f : Byte → Byte × Bool} {res : Byte → Nat} {out : Byte → Bool}
    (hexec : exec i s = s.shiftHl f) (h : ∀ v, ShiftsTo (f v) (res v) (out v)) :
    ModifiesHl i s (fun v => BitVec.ofNat 8 (res v))
      (fun v flags => FlagsAre flags (decide (res v = 0)) false false (out v)) 2 16 := by
  simp only [(h _).ofNat_eq]
  exact .of_exec hexec fun v t _ => congrArg (State.retire · 2 16) ((h v).setShiftFlags_eq t)

end

/-! ## Single bits (rules R296 to R301) -/

/-- `w` is `v` with bit `b` made `x`. -/
def BitChanged (b : BitVec 3) (v w : Byte) (x : Bool) : Prop :=
  ∀ k, k < 8 → w.getLsbD k = if k = b.toNat then x else v.getLsbD k

theorem getLsbD_bitMask (b : BitVec 3) (k : Nat) : (bitMask b).getLsbD k = decide (k = b.toNat) := by
  have hb := b.isLt
  have hpow : bitMask b = BitVec.twoPow 8 b.toNat := rfl
  rw [hpow, BitVec.getLsbD_twoPow, decide_eq_true hb, Bool.true_and, decide_eq_decide]
  exact eq_comm

theorem clearBit_bitChanged (b : BitVec 3) (v : Byte) : BitChanged b v (clearBit b v) false := by
  intro k hk
  rw [clearBit, BitVec.getLsbD_and, BitVec.getLsbD_not, getLsbD_bitMask, decide_eq_true hk, Bool.true_and]
  split_ifs with h <;> simp [h]

theorem raiseBit_bitChanged (b : BitVec 3) (v : Byte) : BitChanged b v (raiseBit b v) true := by
  intro k hk
  rw [raiseBit, BitVec.getLsbD_or, getLsbD_bitMask]
  split_ifs with h <;> simp [h]

section
variable {i : Instr} {s : State} {len cycles : Nat}

/-- What BIT does (rules R296, R297): its flags beside the old A. -/
theorem givesA_bit {b : BitVec 3} {v : Byte} (hexec : exec i s = (s.setBitFlags b v).retire len cycles) :
    GivesA i s s.regs.a (!v.getLsbD b.toNat) false true (s.regs.f.getLsbD 4) len cycles :=
  .of_exec (o := ⟨s.regs.a, !v.getLsbD b.toNat, false, true, s.regs.f.getLsbD 4⟩) hexec rfl

/-- What RES and SET of a register do (rules R298, R300). -/
theorem State.setReg_retire_bitChanged (s : State) (r : Reg8) {b : BitVec 3} {g : Byte → Byte} {x : Bool}
    (hg : ∀ v, BitChanged b v (g v) x) (len n : Nat) :
    ∃ t w, BitChanged b (s.reg r) w x ∧ (s.setReg r (g (s.reg r))).retire len n = .next t ∧ s.OnlyReg t r w ∧
      s.CpuStep t s.regs.f s.regs.sp (s.regs.pc + BitVec.ofNat 16 len) n :=
  let ⟨t, hstep⟩ := s.setReg_retire r (g (s.reg r)) len n
  ⟨t, _, hg _, hstep⟩

/-- A read-modify-write at HL that writes no flag. -/
theorem ModifiesHl.of_exec_keepsFlags {g : Byte → Byte}
    (hexec : exec i s = s.modifyHl g fun _ t => t.retire len cycles) :
    ModifiesHl i s g (fun _ f => f = s.regs.f) len cycles := by
  have hload {v} (hread : s.readByte s.hl = .ok v) := hexec.trans (State.withLoad_ok hread _)
  refine ⟨fun v w hread hwrite => ⟨_, rfl, ?_⟩, fun c hread => .load hexec hread,
    fun v c w hread hwrite => .store (hload hread) hwrite⟩
  rw [hload hread, State.withStore_done hwrite]
  exact State.writeByte_regs hwrite ▸ w.retire_eq len cycles

end

/-! ## The obligations -/

/-- Settles O20: the numbers of RLC, RRC, RL and RR, whose byte goes to A with Z cleared (`givesA_rotate`). -/
theorem rotateAccumulatorResults : Obligations.RotateAccumulatorResults := by
  unfold Obligations.RotateAccumulatorResults
  intro s v c top low
  exact ⟨rfl, givesA_rotate rfl (rlc_shiftsTo _), rfl, givesA_rotate rfl (rrc_shiftsTo _),
    rfl, givesA_rotate rfl (rl_shiftsTo _ s.fc), rfl, givesA_rotate rfl (rr_shiftsTo _ s.fc)⟩

/-- Settles O21: each operation's number and bit, written to the register and the flags (`givesReg_shift`). -/
theorem rotateShiftRegisterResults : Obligations.RotateShiftRegisterResults := by
  unfold Obligations.RotateShiftRegisterResults
  intro s r v c top low gives
  exact ⟨⟨bytesAre_extended rfl (toNat_or_atZ rfl _), givesReg_shift rfl (rlc_shiftsTo _)⟩,
    ⟨bytesAre_extended rfl (toNat_or_atZ rfl _), givesReg_shift rfl (rrc_shiftsTo _)⟩,
    ⟨bytesAre_extended rfl (toNat_or_atZ rfl _), givesReg_shift rfl (rl_shiftsTo _ s.fc)⟩,
    ⟨bytesAre_extended rfl (toNat_or_atZ rfl _), givesReg_shift rfl (rr_shiftsTo _ s.fc)⟩,
    ⟨bytesAre_extended rfl (toNat_or_atZ rfl _), givesReg_shift rfl (sla_shiftsTo _)⟩,
    ⟨bytesAre_extended rfl (toNat_or_atZ rfl _), givesReg_shift rfl (sra_shiftsTo _)⟩,
    ⟨bytesAre_extended rfl (toNat_or_atZ rfl _), givesReg_shift rfl (swap_shiftsTo _)⟩,
    ⟨bytesAre_extended rfl (toNat_or_atZ rfl _), givesReg_shift rfl (srl_shiftsTo _)⟩⟩

/-- Settles O22: each operation's number and bit, of the byte read at HL (`modifiesHl_shift`). -/
theorem rotateShiftMemoryResults : Obligations.RotateShiftMemoryResults := by
  unfold Obligations.RotateShiftMemoryResults
  intro s c gives top low
  exact ⟨⟨rfl, modifiesHl_shift rfl rlc_shiftsTo⟩, ⟨rfl, modifiesHl_shift rfl rrc_shiftsTo⟩,
    ⟨rfl, modifiesHl_shift rfl (rl_shiftsTo · s.fc)⟩, ⟨rfl, modifiesHl_shift rfl (rr_shiftsTo · s.fc)⟩,
    ⟨rfl, modifiesHl_shift rfl sla_shiftsTo⟩, ⟨rfl, modifiesHl_shift rfl sra_shiftsTo⟩,
    ⟨rfl, modifiesHl_shift rfl swap_shiftsTo⟩, ⟨rfl, modifiesHl_shift rfl srl_shiftsTo⟩⟩

/-- Settles O23: BIT writes flags only (`givesA_bit`); the masks of RES and SET are told bit by bit
(`clearBit_bitChanged`, `raiseBit_bitChanged`). -/
theorem bitInstructionResults : Obligations.BitInstructionResults := by
  unfold Obligations.BitInstructionResults
  intro s b changed c
  exact ⟨fun r => ⟨bytesAre_extended rfl (toNat_or_atY_or_atZ rfl rfl b r.code), givesA_bit rfl⟩,
    bytesAre_extended rfl (toNat_or_atY rfl b), fun v hread => givesA_bit (State.withLoad_ok hread _),
    fun x hread => .load rfl hread,
    fun r => ⟨bytesAre_extended rfl (toNat_or_atY_or_atZ rfl rfl b r.code),
      s.setReg_retire_bitChanged r (clearBit_bitChanged b) 2 8⟩,
    fun r => ⟨bytesAre_extended rfl (toNat_or_atY_or_atZ rfl rfl b r.code),
      s.setReg_retire_bitChanged r (raiseBit_bitChanged b) 2 8⟩,
    ⟨bytesAre_extended rfl (toNat_or_atY rfl b), clearBit b, clearBit_bitChanged b, .of_exec_keepsFlags rfl⟩,
    ⟨bytesAre_extended rfl (toNat_or_atY rfl b), raiseBit b, raiseBit_bitChanged b, .of_exec_keepsFlags rfl⟩⟩

end Sys2Proof.Machine
end

section
/-! SUPPORT. The control transfers: a relative target as a number, a conditional transfer by its condition, and a jump,
a call and a return by the shape of their meaning. -/

namespace Sys2Proof

/-- A condition's code at `op[4:3]` counts eight times (rule R145). -/
theorem toNat_or_atCc {pat : Byte} (hpat : pat &&& 0x18 = 0) (c : BitVec 2) :
    (pat ||| atCc c).toNat = pat.toNat + 8 * c.toNat := by
  have hfield : ∀ c : BitVec 2, 0x18 &&& atCc c = atCc c ∧ (atCc c).toNat = 8 * c.toNat := by decide
  rw [toNat_or_of_masked hpat (hfield c).1, (hfield c).2]

end Sys2Proof

namespace Sys2Proof.Machine

section
variable {i : Instr} {s : State} {a : Word} {n : Nat}

/-- Rule R314's target: the displacement is signed and counts from the following instruction. -/
theorem State.relTarget_eq_ofInt (s : State) (e : Byte) :
    s.relTarget e = BitVec.ofInt 16 ((s.regs.pc.toNat : Int) + 2 + e.toInt) := by
  rw [BitVec.ofInt_add, BitVec.ofInt_add, BitVec.ofInt_natCast, BitVec.ofNat_toNat, BitVec.setWidth_eq]
  rfl

/-! ## Conditions (rule R145) -/

section
variable {cc : Cond} {taken skipped : Result}

theorem exec_of_holds (hexec : exec i s = if s.holds cc then taken else skipped) (h : s.holds cc = true) :
    exec i s = taken :=
  hexec.trans (if_pos h)

theorem exec_of_not_holds (hexec : exec i s = if s.holds cc then taken else skipped) (h : s.holds cc = false) :
    exec i s = skipped :=
  hexec.trans (if_neg (ne_true_of_eq_false h))

end

/-! ## Jumps, calls and returns -/

theorem GoesTo.jump (hexec : exec i s = s.jump a n) : GoesTo i s a n := hexec

/-- A transfer that is not taken goes to the following instruction. -/
theorem GoesTo.retire {len : Nat} (hexec : exec i s = s.retire len n) :
    GoesTo i s (s.regs.pc + BitVec.ofNat 16 len) n :=
  hexec

theorem GoesTo.relative {e : Byte} (hexec : exec i s = s.jump (s.relTarget e) n) :
    GoesTo i s (BitVec.ofInt 16 ((s.regs.pc.toNat : Int) + 2 + e.toInt)) n :=
  .jump (s.relTarget_eq_ofInt e ▸ hexec)

theorem PushesThen.call {len : Nat} (hexec : exec i s = s.call len a n) :
    PushesThen i s (s.regs.pc + BitVec.ofNat 16 len) a n :=
  .of_exec hexec fun t _ => t.jump_eq a n

/-- An instruction that pops PC and leaves `ime` in the master-enable. -/
theorem PopsPc.of_exec {k : Word → State → Result} {ime : Bool} (hexec : exec i s = s.withPop k)
    (hk : ∀ pc t, t.ime = s.ime → k pc t = ({ t with ime := ime } : State).jump pc n) : PopsPc i s ime n := by
  refine ⟨fun lo hi hlow hhigh => ?_, fun c hlow => .pop hexec (.inl hlow),
    fun lo c hlow hhigh => .pop hexec (.inr ⟨lo, hlow, hhigh⟩)⟩
  exact (hexec.trans (State.withPop_done hlow hhigh k)).trans (hk _ _ rfl)

theorem PopsPc.return (hexec : exec i s = s.return n) : PopsPc i s s.ime n :=
  .of_exec hexec fun _ _ hime => hime ▸ rfl

theorem PopsPc.returnFromInterrupt (hexec : exec i s = s.returnFromInterrupt n) : PopsPc i s true n :=
  .of_exec hexec fun _ _ _ => rfl

end

/-! ## The obligations -/

/-- Settles O24: every form is a jump, or a jump where its condition holds and else the end of the instruction; the
relative targets are those of `State.relTarget_eq_ofInt`. -/
theorem jumpResults : Obligations.JumpResults := by
  unfold Obligations.JumpResults
  intro s target
  exact ⟨iff_of_eq (Bool.not_eq_true' _), Iff.rfl, iff_of_eq (Bool.not_eq_true' _), Iff.rfl, rfl, rfl, rfl, rfl,
    fun nn => ⟨bytesAre_word rfl rfl, .jump rfl⟩,
    fun cc nn => ⟨bytesAre_word rfl (toNat_or_atCc rfl _), fun h => .jump (exec_of_holds rfl h),
      fun h => .retire (exec_of_not_holds rfl h)⟩,
    ⟨rfl, .jump rfl⟩, fun e => ⟨rfl, .relative rfl⟩,
    fun cc e => ⟨bytesAre_cons rfl (toNat_or_atCc rfl _) rfl, fun h => .relative (exec_of_holds rfl h),
      fun h => .retire (exec_of_not_holds rfl h)⟩⟩

/-- Settles O25: every form is a call, or a call where its condition holds and else the end of the instruction. -/
theorem callResults : Obligations.CallResults := by
  unfold Obligations.CallResults
  intro s
  exact ⟨fun nn => ⟨bytesAre_word rfl rfl, .call rfl⟩,
    fun cc nn => ⟨bytesAre_word rfl (toNat_or_atCc rfl _), fun h => .call (exec_of_holds rfl h),
      fun h => .retire (exec_of_not_holds rfl h)⟩,
    fun t => ⟨bytesAre_cons rfl (toNat_or_atY rfl t) rfl, .call rfl⟩⟩

/-- Settles O26: RET and RETI are pops of PC, which differ in the master-enable they leave, and RET cc is a RET where
its condition holds. -/
theorem returnResults : Obligations.ReturnResults := by
  unfold Obligations.ReturnResults
  intro s
  exact ⟨rfl, .return rfl,
    fun cc => ⟨bytesAre_cons rfl (toNat_or_atCc rfl _) rfl, fun h => .return (exec_of_holds rfl h),
      fun h => .retire (exec_of_not_holds rfl h)⟩,
    rfl, .returnFromInterrupt rfl⟩

end Sys2Proof.Machine
end

section
/-! SUPPORT. The step of rule R350 through the fetch: bytes that decode are fetched, a byte that cannot be read is the
cause of a crash, and a step is what its instruction leaves, followed by the end of the step. -/

namespace Sys2Proof

/-- Bytes that decode with none left are as many as their first one announces (rules R141, R153). -/
theorem length_of_decode {op : Byte} {rest : List Byte} {i : Instr} (h : decode (op :: rest) = .ok (i, [])) :
    rest.length = opLength op - 1 := by
  have hpos := (opLength_bounds op).1
  unfold decode at h
  dsimp only at h
  split_ifs at h with hshort
  split at h
  next op2 hbase =>
    have hspelt := congrArg List.length (spells_of_lookupBase hbase).1
    rw [List.length_take_of_le (opLength_bounds op).2] at hspelt
    have htwo : 2 = opLength op := hspelt
    split at h
    · obtain ⟨-, hrest⟩ := Prod.mk.inj (Except.ok.inj h)
      have := List.drop_eq_nil_iff.mp hrest
      omega
    · cases h
  next =>
    obtain ⟨-, hrest⟩ := Prod.mk.inj (Except.ok.inj h)
    have := List.drop_eq_nil_iff.mp hrest
    omega
  next => cases h

end Sys2Proof

namespace Sys2Proof.Machine

/-! ## The fetch -/

theorem add_ofNat_succ (a : Word) (n : Nat) : a + BitVec.ofNat 16 (n + 1) = a + 1 + BitVec.ofNat 16 n := by
  rw [Nat.add_comm, BitVec.ofNat_add, BitVec.add_assoc]
  rfl

section
variable {s : State} {c : Fatal} {op : Byte} {i : Instr}

theorem State.readBytes_of_bytesAt : ∀ {bs : List Byte} {a : Word}, s.BytesAt a bs →
    s.readBytes bs.length a = .ok bs
  | [], _, _ => rfl
  | v :: rest, a, h => by
    obtain ⟨hv, hrest⟩ := h
    rw [List.length_cons, State.readBytes, hv]
    simp only [State.readBytes_of_bytesAt hrest]

/-- A byte that cannot be read stops the reading of a range it lies in. -/
theorem State.readBytes_error : ∀ {bs : List Byte} {a : Word} {n : Nat}, s.BytesAt a bs → bs.length < n →
    s.readByte (a + BitVec.ofNat 16 bs.length) = .error c → s.readBytes n a = .error c
  | [], a, n + 1, _, _, hread => by
    have ha : s.readByte a = .error c := by simpa using hread
    rw [State.readBytes, ha]
  | v :: rest, a, n + 1, hbytes, hn, hread => by
    obtain ⟨hv, hrest⟩ := hbytes
    rw [List.length_cons, add_ofNat_succ] at hread
    rw [State.readBytes, hv]
    simp only [State.readBytes_error hrest (Nat.lt_of_succ_lt_succ hn) hread]

theorem State.fetch_of_decode {bs : List Byte} (hbytes : s.BytesAt s.regs.pc bs) (hdecode : decode bs = .ok (i, [])) :
    s.fetch = .ok i := by
  cases bs with
  | nil => cases hdecode
  | cons op rest =>
    obtain ⟨hop, hrest⟩ := hbytes
    have hread := State.readBytes_of_bytesAt hrest
    rw [length_of_decode hdecode] at hread
    simp only [State.fetch, hop, hread, hdecode]

theorem State.fetch_opcode_error (h : s.readByte s.regs.pc = .error c) : s.fetch = .error c := by
  rw [State.fetch, h]

theorem State.fetch_operand_error {bs : List Byte} (hbytes : s.BytesAt s.regs.pc (op :: bs))
    (hlen : bs.length + 1 < opLength op)
    (hread : s.readByte (s.regs.pc + BitVec.ofNat 16 (bs.length + 1)) = .error c) : s.fetch = .error c := by
  obtain ⟨hop, hrest⟩ := hbytes
  rw [add_ofNat_succ] at hread
  have herror := State.readBytes_error hrest (Nat.lt_sub_of_add_lt hlen) hread
  simp only [State.fetch, hop, herror]

end

/-! ## The end of a step (rules R334, R356) -/

section
variable {t : State}

theorem State.endOfStep_running (h : t.run = .running) (before : Option Nat) :
    t.endOfStep before = ((t.settleEnable before).advanceClocks t.cyc).serviceInterrupts := by
  rw [State.endOfStep, h]

theorem State.endOfStep_stopped (h : t.run ≠ .running) (before : Option Nat) : t.endOfStep before = t := by
  unfold State.endOfStep
  split
  · exact absurd ‹_› h
  · rfl

@[simp] theorem State.settleEnable_none (t : State) : t.settleEnable none = t := rfl

end

/-! ## A step that executes an instruction -/

section
variable {s t : State} {i : Instr} {c : Fatal}
  (hs : s.PastBoundary) (hhalt : s.afterInput.halt = false) (hstop : s.afterInput.stop = false)
include hs hhalt hstop

theorem step_eq_executeStep : step s = s.afterInput.executeStep := by
  rw [step_pastBoundary hs, hhalt, hstop]
  rfl

theorem step_of_fetch (hfetch : s.afterInput.fetch = .ok i) (hexec : exec i s.afterInput = .next t) :
    step s = .next (t.endOfStep s.afterInput.eiPending) := by
  rw [step_eq_executeStep hs hhalt hstop, State.executeStep, hfetch]
  simp only [hexec]

theorem step_of_fetch_error (hfetch : s.afterInput.fetch = .error c) : step s = .next (s.afterInput.crash c) := by
  rw [step_eq_executeStep hs hhalt hstop, State.executeStep, hfetch]

end

/-- Settles O1: a step is its fetch (`State.fetch_of_decode`, `State.fetch_opcode_error`, `State.fetch_operand_error`),
its instruction and the end of the step. -/
theorem stepRunsDecodedInstruction : Obligations.StepRunsDecodedInstruction := by
  unfold Obligations.StepRunsDecodedInstruction
  refine ⟨fun s i bs hs hhalt hstop hbytes hdecode => ?_, fun s c hs hhalt hstop => ⟨fun hread => ?_,
    fun op bs hbytes hlen hread => ?_⟩, fun s n => rfl⟩
  · obtain ⟨t, hexec⟩ := exec_next i s.afterInput
    have hstep := step_of_fetch hs hhalt hstop (State.fetch_of_decode hbytes hdecode) hexec
    refine ⟨t, hexec, fun hnone => ?_, fun hrun => ?_, fun hrun => ?_⟩
    · rw [hnone, State.settleEnable_none]
    · rw [hstep, State.endOfStep_running hrun]
      rfl
    · rw [hstep, State.endOfStep_stopped hrun]
  · exact ⟨_, step_of_fetch_error hs hhalt hstop (State.fetch_opcode_error hread), rfl⟩
  · exact ⟨_, step_of_fetch_error hs hhalt hstop (State.fetch_operand_error hbytes hlen hread), rfl⟩

end Sys2Proof.Machine
end

section
/-! SUPPORT. The system instructions, PREFIX CB and the opcodes without a table entry: the step of a quiet machine, and
the extended instruction that a second byte selects. -/

namespace Sys2Proof.Machine

/-! ## The step of a quiet machine -/

namespace State.Quiet

variable {s t : State} (h : s.Quiet)
include h

theorem pastBoundary : s.PastBoundary := by
  obtain ⟨hrun, -, -, hticks, -⟩ := h
  exact ⟨hrun, fun tick rest hcons => by rw [hticks] at hcons; cases hcons⟩

theorem afterInput_eq : s.afterInput = s := by
  obtain ⟨-, -, -, hticks, hevents⟩ := h
  simp only [State.afterInput, hticks, State.pollJoypad, hevents]

theorem step_eq {i : Instr} {bs : List Byte} (hbytes : s.BytesAt s.regs.pc bs) (hdecode : decode bs = .ok (i, []))
    (hexec : exec i s = .next t) : step s = .next (t.endOfStep s.eiPending) := by
  have hpast := h.pastBoundary
  have hinput := h.afterInput_eq
  obtain ⟨-, hhalt, hstop, -, -⟩ := h
  rw [← hinput] at hhalt hstop hbytes hexec
  rw [step_of_fetch hpast hhalt hstop (State.fetch_of_decode hbytes hdecode) hexec, hinput]

end State.Quiet

/-! ## EI (rule R334) -/

theorem exec_ei_atOnce {s : State} (h : s.params.eiDelay = 0) :
    exec .ei s = .next { s with ime := true, regs := { s.regs with pc := s.regs.pc + 1 }, cyc := 4 } := by
  show s.enableInterrupts.retire 1 4 = _
  rw [State.enableInterrupts, if_pos h]
  rfl

theorem exec_ei_delayed {s : State} (hdelay : s.params.eiDelay ≠ 0) (hime : s.ime = false)
    (hnone : s.eiPending = none) :
    exec .ei s =
      .next { s with eiPending := some s.params.eiDelay, regs := { s.regs with pc := s.regs.pc + 1 }, cyc := 4 } := by
  have hnothing : ¬ (s.ime = true ∨ s.eiPending ≠ none) := by simp [hime, hnone]
  show s.enableInterrupts.retire 1 4 = _
  rw [State.enableInterrupts, if_neg hdelay, if_neg hnothing]
  rfl

/-- An enable one instruction away has come when the instruction has executed. -/
theorem State.settleEnable_one {t : State} (h : t.eiPending = some 1) :
    t.settleEnable (some 1) = { t with ime := true, eiPending := none } := by
  simp [State.settleEnable, h]

/-! ## PREFIX CB (rule R335) -/

/-- The extended instruction of a second byte, by the register code and the operation that `execPrefixCb` runs. -/
def extendedInstr (op2 : Byte) : Instr :=
  let b := yField op2
  match Reg8.ofCode (zField op2), op2.toNat / 8 with
  | some r, 0 => .rlcR r
  | some r, 1 => .rrcR r
  | some r, 2 => .rlR r
  | some r, 3 => .rrR r
  | some r, 4 => .slaR r
  | some r, 5 => .sraR r
  | some r, 6 => .swapR r
  | some r, 7 => .srlR r
  | none, 0 => .rlcHl
  | none, 1 => .rrcHl
  | none, 2 => .rlHl
  | none, 3 => .rrHl
  | none, 4 => .slaHl
  | none, 5 => .sraHl
  | none, 6 => .swapHl
  | none, 7 => .srlHl
  | some r, n => if n < 16 then .bitR b r else if n < 24 then .resR b r else .setR b r
  | none, n => if n < 16 then .bitHl b else if n < 24 then .resHl b else .setHl b

/-- It is the one that the extended table answers. -/
theorem lookupExt_eq (op2 : Byte) : lookupExt op2 = some (extendedInstr op2) := by
  revert op2
  decide +kernel

theorem exec_prefixCb (op2 : Byte) (s : State) : exec (.prefixCb op2) s = exec (extendedInstr op2) s := by
  show execPrefixCb op2 s = _
  unfold execPrefixCb extendedInstr
  generalize Reg8.ofCode (zField op2) = code, op2.toNat / 8 = group
  cases code
  all_goals
    obtain _ | _ | _ | _ | _ | _ | _ | _ | group := group
    case succ.succ.succ.succ.succ.succ.succ.succ =>
      show (if _ then _ else if _ then _ else _) = exec (if _ then _ else if _ then _ else _) s
      split_ifs <;> rfl
    all_goals rfl

/-- The end of an extended instruction on a register, which has written neither PC nor the run status. -/
theorem State.retire_extended {s t : State} (hrun : t.run = s.run) (hpc : t.regs.pc = s.regs.pc) :
    ∃ u, t.retire 2 8 = .next u ∧ u.run = s.run ∧ u.regs.pc = s.regs.pc + 2 ∧ u.cyc = 8 :=
  ⟨_, rfl, hrun, congrArg (· + 2) hpc, rfl⟩

theorem State.shiftReg_completes (s : State) (r : Reg8) (out : Byte × Bool) :
    ∃ u, s.shiftReg r out = .next u ∧ u.run = s.run ∧ u.regs.pc = s.regs.pc + 2 ∧ u.cyc = 8 :=
  State.retire_extended (s.setReg_run r out.1) (s.setReg_regs_pc r out.1)

/-- Every second byte whose low three bits are a register code (rule R150). -/
theorem exec_prefixCb_register {op2 : Byte} (h : op2.toNat % 8 ≠ 6) (s : State) :
    ∃ u, exec (.prefixCb op2) s = .next u ∧ u.run = s.run ∧ u.regs.pc = s.regs.pc + 2 ∧ u.cyc = 8 := by
  have hcodes : ∀ c : BitVec 3, c.toNat ≠ 6 → (Reg8.ofCode c).isSome = true := by decide
  have hz : (zField op2).toNat = op2.toNat % 8 := by simp [zField]
  obtain ⟨r, hr⟩ := Option.isSome_iff_exists.mp (hcodes (zField op2) (hz ▸ h))
  show ∃ u, execPrefixCb op2 s = .next u ∧ _
  unfold execPrefixCb
  rw [hr]
  dsimp only
  split
  case h_1 | h_2 | h_3 | h_4 | h_5 | h_6 | h_7 | h_8 => exact s.shiftReg_completes _ _
  case h_17 =>
    split_ifs
    · exact State.retire_extended rfl rfl
    · exact State.retire_extended (s.setReg_run _ _) (s.setReg_regs_pc _ _)
    · exact State.retire_extended (s.setReg_run _ _) (s.setReg_regs_pc _ _)
  all_goals contradiction

/-! ## The obligations -/

/-- Settles O28: a step moves the enable that was on its way before its instruction (`State.Quiet.step_eq`), which is
none before EI, and EI's own before the next instruction (`State.settleEnable_one`). -/
theorem delayedEnableComesAfterNextInstruction : Obligations.DelayedEnableComesAfterNextInstruction := by
  unfold Obligations.DelayedEnableComesAfterNextInstruction
  intro s hdelay hquiet
  refine ⟨fun hime hnone hread => ?_, fun i bs t hbefore hbytes hdecode hexec hrun hpending => ?_⟩
  · have hdecode : decode [0xFB] = .ok (.ei, []) := decode_eq_of_encode_eq rfl rfl
    have hbytes : s.BytesAt s.regs.pc [0xFB] := ⟨hread, trivial⟩
    have hexec := exec_ei_delayed (hdelay ▸ Nat.one_ne_zero) hime hnone
    rw [hdelay] at hexec
    rw [hquiet.step_eq hbytes hdecode hexec, hnone]
    refine congrArg Host.Outcome.next (State.endOfStep_running ?_ none)
    exact hquiet.1
  · rw [hquiet.step_eq hbytes hdecode hexec, State.endOfStep_running hrun, hbefore, State.settleEnable_one hpending]

/-- Settles O29: the extended table answers the instruction that PREFIX CB runs (`lookupExt_eq`, `exec_prefixCb`). -/
theorem prefixRunsExtendedInstruction : Obligations.PrefixRunsExtendedInstruction := by
  unfold Obligations.PrefixRunsExtendedInstruction
  intro op2
  have hext := lookupExt_eq op2
  refine ⟨extendedInstr op2, decode_of_lookupExt hext, bytesAre_extended (encode_of_lookupExt hext).2 rfl,
    fun s => ⟨exec_prefixCb op2 s, ?_⟩⟩
  by_cases h : op2.toNat % 8 = 6
  · obtain ⟨t, hexec⟩ := exec_next (.prefixCb op2) s
    exact ⟨t, hexec, fun hne => absurd h hne⟩
  · obtain ⟨t, hexec, hregister⟩ := exec_prefixCb_register h s
    exact ⟨t, hexec, fun _ => hregister⟩

/-- Settles O27: each instruction writes its mode, if it has one, and ends; EI by `exec_ei_atOnce`. -/
theorem systemInstructionResults : Obligations.SystemInstructionResults := by
  unfold Obligations.SystemInstructionResults
  intro s
  exact ⟨⟨rfl, .retire rfl⟩, ⟨rfl, rfl⟩, fun n => ⟨rfl, rfl⟩, ⟨rfl, rfl⟩, ⟨rfl, exec_ei_atOnce⟩⟩

/-- Settles O30: the eleven share one meaning, `State.unrecognized`, after which a step ends at once. -/
theorem unrecognizedOpcodesCrash : Obligations.UnrecognizedOpcodesCrash := by
  unfold Obligations.UnrecognizedOpcodesCrash
  intro s p hp
  obtain ⟨henc, hwf, hexec⟩ : encode p.1 = [p.2] ∧ p.1.wellFormed = true ∧ exec p.1 s = s.unrecognized := by
    simp only [List.mem_cons, List.not_mem_nil, or_false] at hp
    obtain rfl | rfl | rfl | rfl | rfl | rfl | rfl | rfl | rfl | rfl | rfl := hp <;> exact ⟨rfl, rfl, rfl⟩
  refine ⟨henc, hexec, fun hquiet hread => ?_⟩
  have hdecode : decode [p.2] = .ok (p.1, []) := decode_eq_of_encode_eq hwf henc
  have hbytes : s.BytesAt s.regs.pc [p.2] := ⟨hread, trivial⟩
  rw [hquiet.step_eq hbytes hdecode hexec]
  refine congrArg Host.Outcome.next (State.endOfStep_stopped ?_ _)
  exact nofun

end Sys2Proof.Machine
end

section
/-! SUPPORT. The dispatch of rule R365: which source it takes, and what taking one does when its push completes and when
a stack write raises. -/

namespace Sys2Proof.Machine

/-! ## The source taken (rules R363, R366) -/

/-- The pending sources of rule R363: enabled, requested, and one of the five. -/
theorem State.pending_bit (s : State) {k : Nat} (hk : k < 5) :
    s.pending.getLsbD k = (s.ieReg.getLsbD k && s.ifReg.getLsbD k) := by
  have hsource : ∀ k, k < 5 → (0x1F : Byte).getLsbD k = true := by decide
  rw [State.pending, BitVec.getLsbD_and, BitVec.getLsbD_and, hsource k hk, Bool.and_true]

theorem lowestSource_eq_some_iff {m : Byte} {i : Nat} :
    lowestSource m = some i ↔ m.getLsbD i = true ∧ i < 5 ∧ ∀ k, k < i → m.getLsbD k = false := by
  simp [lowestSource, bitOf]

theorem State.dispatch_eq_takeInterrupt {s : State} {i : Nat} (hi : i < 5) (hime : s.ime = true)
    (hpending : (s.ieReg.getLsbD i && s.ifReg.getLsbD i) = true)
    (hlowest : ∀ k, k < i → (s.ieReg.getLsbD k && s.ifReg.getLsbD k) = false) :
    s.dispatch = s.takeInterrupt i := by
  have hsource : lowestSource s.pending = some i :=
    lowestSource_eq_some_iff.2 ⟨(s.pending_bit hi).trans hpending, hi,
      fun k hk => (s.pending_bit (hk.trans hi)).trans (hlowest k hk)⟩
  rw [State.dispatch, if_pos hime, hsource]

/-! ## Taking a source (rules R365, R368) -/

/-- A write leaves the parameters alone. -/
theorem State.writeByte_params {s t : State} {a : Word} {v : Byte} (h : s.writeByte a v = .done () t) :
    t.params = s.params := by
  rw [State.writeByte_frame s t a v h]; rfl

/-- A write leaves the cycle report alone. -/
theorem State.writeByte_cyc {s t : State} {a : Word} {v : Byte} (h : s.writeByte a v = .done () t) :
    t.cyc = s.cyc := by
  rw [State.writeByte_frame s t a v h]; rfl

/-- IF with the flag of source `i` cleared. -/
def State.flagsWithout (s : State) (i : Nat) : Byte := s.ifReg &&& ~~~((1 : Byte) <<< i)

/-- The instruction RES clears the same bit (`clearBit_bitChanged`). -/
theorem State.flagsWithout_bit (s : State) {i k : Nat} (hi : i < 5) (hk : k < 8) :
    (s.flagsWithout i).getLsbD k = (s.ifReg.getLsbD k && decide (k ≠ i)) := by
  have hcode : (BitVec.ofNat 3 i).toNat = i := Nat.mod_eq_of_lt (by omega)
  have hclear := clearBit_bitChanged (BitVec.ofNat 3 i) s.ifReg k hk
  rw [clearBit, bitMask, hcode] at hclear
  rw [State.flagsWithout, hclear]
  split_ifs with h <;> simp [h]

/-- The state from which taking source `i` pushes PC. -/
def State.acknowledged (s : State) (i : Nat) : State := { s with ifReg := s.flagsWithout i, ime := false }

section
variable {s u w : State} {i : Nat} {c : Fatal}

theorem State.takeInterrupt_done (h : (s.acknowledged i).push16 s.regs.pc = .done () w) :
    s.takeInterrupt i = (w.setPc (vectorOf i)).dispatchClocks := by
  unfold State.acknowledged State.flagsWithout at h
  simp only [State.takeInterrupt, h]

theorem State.takeInterrupt_fatal (h : (s.acknowledged i).push16 s.regs.pc = .fatal c w) :
    (s.takeInterrupt i).run = .crashed c := by
  unfold State.acknowledged State.flagsWithout at h
  simp only [State.takeInterrupt, h, State.crash_run]

/-- The state after the two writes of the push, from the state `w` they leave. -/
theorem State.takeInterrupt_pushed
    (hhigh : (s.acknowledged i).writeByte (s.regs.sp - 1) (hiByte s.regs.pc) = .done () u)
    (hlow : u.writeByte (s.regs.sp - 2) (loByte s.regs.pc) = .done () w) :
    s.takeInterrupt i =
      ({ w with regs := { s.regs with sp := s.regs.sp - 2, pc := vectorOf i } } : State).dispatchClocks := by
  have hcyc : w.cyc = (s.acknowledged i).cyc := (State.writeByte_cyc hlow).trans (State.writeByte_cyc hhigh)
  rw [State.takeInterrupt_done (State.push16_done hhigh hlow), ← hcyc]
  rfl

end

/-! ## The obligation -/

/-- Settles O35: the lowest pending source is taken (`State.dispatch_eq_takeInterrupt`), and taking it is the push from
the acknowledged state (`State.takeInterrupt_pushed`, `State.takeInterrupt_fatal`). -/
theorem dispatchTakesLowestPendingSource : Obligations.DispatchTakesLowestPendingSource := by
  unfold Obligations.DispatchTakesLowestPendingSource
  intro s
  refine ⟨State.dispatch_eq_self, fun i hi hime hpending hlowest =>
    ⟨s.flagsWithout i, fun k hk => s.flagsWithout_bit hi hk, ?_⟩⟩
  rw [State.dispatch_eq_takeInterrupt hi hime hpending hlowest]
  refine ⟨fun u w hhigh hlow => ?_, fun c u hhigh => ?_, fun c u w hhigh hlow => ?_⟩
  · have hparams : w.params = s.params :=
      (State.writeByte_params hlow).trans (State.writeByte_params (s := s.acknowledged i) hhigh)
    rw [State.takeInterrupt_pushed hhigh hlow, State.dispatchClocks, hparams]
    exact ⟨fun hzero => if_pos hzero, fun hpos => if_neg hpos.ne'⟩
  · obtain ⟨t, hpush⟩ := State.push16_fatal_high hhigh
    exact State.takeInterrupt_fatal hpush
  · obtain ⟨t, hpush⟩ := State.push16_fatal_low hhigh hlow
    exact State.takeInterrupt_fatal hpush

end Sys2Proof.Machine
end

section
/-! SUPPORT. The timer and the joypad: the registers through the bus, an advance of the timer as its ticks followed by
the new phases, and one event of the joypad. -/

namespace Sys2Proof.Machine

/-! ## Bits -/

/-- A write under a mask, bit by bit. -/
theorem getLsbD_mergeBits (mask old new : Byte) (k : Nat) :
    (mergeBits mask old new).getLsbD k = if mask.getLsbD k then new.getLsbD k else old.getLsbD k := by
  simp only [mergeBits, BitVec.getLsbD_or, BitVec.getLsbD_and, BitVec.getLsbD_not]
  by_cases hk : k < 8
  · cases mask.getLsbD k <;> simp [hk]
  · simp [BitVec.getLsbD_of_ge _ k (Nat.le_of_not_lt hk)]

theorem getLsbD_highNibbleMask {k : Nat} (hk : k < 8) : (0xF0 : Byte).getLsbD k = decide (4 ≤ k) := by
  revert k
  decide

theorem getLsbD_requestIrq (flags : Byte) {i k : Nat} (hk : k < 8) :
    (requestIrq flags i).getLsbD k = (flags.getLsbD k || decide (k = i)) := by
  have hone : ∀ j : Nat, (1 : Byte).getLsbD j = decide (j = 0) := fun j => by
    rw [show (1 : Byte) = 1#8 from rfl, BitVec.getLsbD_one]
    simp
  simp only [requestIrq, BitVec.getLsbD_or, BitVec.getLsbD_shiftLeft, hk, decide_true, Bool.true_and, hone]
  congr 1
  by_cases hlt : k < i
  · simp [hlt, Nat.ne_of_lt hlt]
  · simp only [hlt, decide_false, Bool.not_false, Bool.true_and, decide_eq_decide]
    omega

/-- The four bits of `nibbleOf`, and nothing above them. -/
theorem nibbleOf_bits (b0 b1 b2 b3 : Bool) :
    (nibbleOf b0 b1 b2 b3).getLsbD 0 = b0 ∧ (nibbleOf b0 b1 b2 b3).getLsbD 1 = b1 ∧
    (nibbleOf b0 b1 b2 b3).getLsbD 2 = b2 ∧ (nibbleOf b0 b1 b2 b3).getLsbD 3 = b3 ∧
    ∀ k, k < 8 → 4 ≤ k → (nibbleOf b0 b1 b2 b3).getLsbD k = false := by
  revert b0 b1 b2 b3
  decide

theorem highNibble_or_nibbleOf (x : Byte) (b0 b1 b2 b3 : Bool) :
    (∀ k, 4 ≤ k → k < 8 → ((x &&& 0xF0) ||| nibbleOf b0 b1 b2 b3).getLsbD k = x.getLsbD k) ∧
    ((x &&& 0xF0) ||| nibbleOf b0 b1 b2 b3).getLsbD 0 = b0 ∧
    ((x &&& 0xF0) ||| nibbleOf b0 b1 b2 b3).getLsbD 1 = b1 ∧
    ((x &&& 0xF0) ||| nibbleOf b0 b1 b2 b3).getLsbD 2 = b2 ∧
    ((x &&& 0xF0) ||| nibbleOf b0 b1 b2 b3).getLsbD 3 = b3 := by
  obtain ⟨h0, h1, h2, h3, hhigh⟩ := nibbleOf_bits b0 b1 b2 b3
  refine ⟨fun k hk hk8 => ?_, ?_, ?_, ?_, ?_⟩
  · rw [BitVec.getLsbD_or, BitVec.getLsbD_and, getLsbD_highNibbleMask hk8, hhigh k hk8 hk]
    simp [hk]
  · rw [BitVec.getLsbD_or, BitVec.getLsbD_and, h0, getLsbD_highNibbleMask (by decide)]; simp
  · rw [BitVec.getLsbD_or, BitVec.getLsbD_and, h1, getLsbD_highNibbleMask (by decide)]; simp
  · rw [BitVec.getLsbD_or, BitVec.getLsbD_and, h2, getLsbD_highNibbleMask (by decide)]; simp
  · rw [BitVec.getLsbD_or, BitVec.getLsbD_and, h3, getLsbD_highNibbleMask (by decide)]; simp

theorem fieldOf_zero_two (v : Byte) : fieldOf v 0 2 = v.toNat % 4 := by simp [fieldOf]

/-! ## The registers through the bus -/

section
variable {s : State} {a : Word}

/-- Outside the boot overlay an access reaches the unit of the default map. -/
theorem State.MapSound.target_unit (hmap : s.MapSound) {u : BusUnit} (hpage : 0x100 ≤ a.toNat ∧ a.toNat ≠ 0xFF50)
    (hu : defaultOwner a.toNat = some u) : s.target a = some (u, a.toNat) := by
  rw [hmap.target_default (.inr hpage), hu]
  rfl

/-- Register `r` of the timer, read and written at its address (rule R401). -/
theorem State.access_timer {n : Nat} {r : TimerReg} (ht : s.target a = some (.timer, n))
    (hr : timerRegAt n = some r) : s.readByte a = .ok (s.timer.readReg r) ∧
    ∀ v, s.writeByte a v = .done () { s with timer := s.timer.writeReg r v } := by
  refine ⟨(State.readByte_of_target ht).trans ?_, fun v => (State.writeByte_of_target ht).trans ?_⟩
  · simp only [State.unitRead, hr]
  · simp only [State.unitWrite, hr]

theorem State.access_p1 (ht : s.target a = some (.joypad, 0xFF00)) : s.readByte a = .ok s.joypad.readP1 ∧
    ∀ v, s.writeByte a v = .done () { s with joypad := s.joypad.writeP1 v } :=
  ⟨(State.readByte_of_target ht).trans rfl, fun _ => (State.writeByte_of_target ht).trans rfl⟩

end

/-- Settles O40: each address is that of one register of the timer (`State.access_timer`). -/
theorem timerRegisterAccesses : Obligations.TimerRegisterAccesses := by
  unfold Obligations.TimerRegisterAccesses
  intro s v hmap
  obtain ⟨hdivRead, hdivWrite⟩ :=
    State.access_timer (r := .div) (hmap.target_unit (a := 0xFF04) (by decide) rfl) rfl
  obtain ⟨htimaRead, htimaWrite⟩ :=
    State.access_timer (r := .tima) (hmap.target_unit (a := 0xFF05) (by decide) rfl) rfl
  obtain ⟨htmaRead, htmaWrite⟩ :=
    State.access_timer (r := .tma) (hmap.target_unit (a := 0xFF06) (by decide) rfl) rfl
  obtain ⟨htacRead, htacWrite⟩ :=
    State.access_timer (r := .tac) (hmap.target_unit (a := 0xFF07) (by decide) rfl) rfl
  refine ⟨⟨hdivRead, htimaRead, htmaRead, htacRead⟩, hdivWrite v, htimaWrite v, htmaWrite v, fun h => ?_, fun h => ?_⟩
  · rw [htacWrite v, Timer.writeReg, fieldOf_zero_two, fieldOf_zero_two, if_pos h]
  · rw [htacWrite v, Timer.writeReg, fieldOf_zero_two, fieldOf_zero_two, if_neg h]

/-! ## The timer's advance (rules R402 to R404) -/

/-- The timer with DIV and the two accumulators replaced: all that a tick of TIMA neither reads nor writes, but for
TMA and TAC. -/
def TimerIo.withPhase (div : Byte) (divAcc timaAcc : Nat) (x : TimerIo) : TimerIo :=
  { x with timer := { x.timer with div := div, divAcc := divAcc, timaAcc := timaAcc } }

theorem TimerIo.tick_withPhase (d : Byte) (i j : Nat) (x : TimerIo) :
    (x.withPhase d i j).tick = x.tick.withPhase d i j := by
  unfold TimerIo.tick
  by_cases h : x.timer.tima = 255
  · rw [if_pos h, if_pos (show (x.withPhase d i j).timer.tima = 255 from h)]; rfl
  · rw [if_neg h, if_neg (show (x.withPhase d i j).timer.tima ≠ 255 from h)]; rfl

theorem TimerIo.iterate_tick_withPhase (d : Byte) (i j k : Nat) (x : TimerIo) :
    TimerIo.tick^[k] (x.withPhase d i j) = (TimerIo.tick^[k] x).withPhase d i j :=
  Function.Commute.iterate_left (g := TimerIo.withPhase d i j) (TimerIo.tick_withPhase d i j) k x

/-- Ticks write TIMA and the flags only. -/
theorem TimerIo.iterate_tick_timer (k : Nat) (x : TimerIo) :
    (TimerIo.tick^[k] x).timer = { x.timer with tima := (TimerIo.tick^[k] x).timer.tima } := by
  induction k generalizing x with
  | zero => rfl
  | succ k ih =>
    have htick : x.tick.timer = { x.timer with tima := x.tick.timer.tima } := by
      unfold TimerIo.tick
      split_ifs <;> rfl
    rw [Function.iterate_succ_apply, ih x.tick, htick]

/-- DIV after `n` cycles. -/
def Timer.divAfter (t : Timer) (n : Nat) : Byte := t.div + BitVec.ofNat 8 ((t.divAcc + n) / 256)

theorem TimerIo.advance_of_disabled {x : TimerIo} (h : bitOf x.timer.tac 2 = false) (n : Nat) :
    x.advance n = x.withPhase (x.timer.divAfter n) ((x.timer.divAcc + n) % 256) x.timer.timaAcc :=
  if_neg (by simp [Timer.advanceDiv, h])

/-- An advance of the enabled timer: a tick for each crossing of the threshold, and the new phases. -/
theorem TimerIo.advance_of_enabled {x : TimerIo} (h : bitOf x.timer.tac 2 = true) (n : Nat) :
    x.advance n =
      (TimerIo.tick^[(x.timer.timaAcc + n) / timaThreshold x.timer.tac] x).withPhase (x.timer.divAfter n)
        ((x.timer.divAcc + n) % 256) ((x.timer.timaAcc + n) % timaThreshold x.timer.tac) := by
  rw [← TimerIo.iterate_tick_withPhase]
  exact if_pos h

/-- The remainder of the first advance carries what the quotient leaves out. -/
theorem add_div_of_carried (acc m n t : Nat) (ht : 0 < t) :
    (acc + m) / t + ((acc + m) % t + n) / t = (acc + (m + n)) / t := by
  rw [← Nat.mul_add_div ht, ← Nat.add_assoc (t * _), Nat.div_add_mod, Nat.add_assoc]

theorem Timer.divAfter_add (d : Byte) (acc m n : Nat) :
    d + BitVec.ofNat 8 ((acc + m) / 256) + BitVec.ofNat 8 (((acc + m) % 256 + n) / 256) =
      d + BitVec.ofNat 8 ((acc + (m + n)) / 256) := by
  rw [BitVec.add_assoc, ← BitVec.ofNat_add, add_div_of_carried acc m n 256 (by decide)]

/-- No cycle is lost between two advances. -/
theorem TimerIo.advance_advance (x : TimerIo) (m n : Nat) : (x.advance m).advance n = x.advance (m + n) := by
  cases h : bitOf x.timer.tac 2 with
  | false =>
    rw [TimerIo.advance_of_disabled h m, TimerIo.advance_of_disabled h (m + n),
      TimerIo.advance_of_disabled (x := x.withPhase (x.timer.divAfter m) _ x.timer.timaAcc) h n]
    simp only [TimerIo.withPhase, Timer.divAfter, Timer.divAfter_add, Nat.mod_add_mod, Nat.add_assoc]
  | true =>
    have hticks : (TimerIo.tick^[(x.timer.timaAcc + m) / timaThreshold x.timer.tac] x).timer.tac = x.timer.tac := by
      rw [TimerIo.iterate_tick_timer]
    have htac : (x.advance m).timer.tac = x.timer.tac := by
      rw [TimerIo.advance_of_enabled h m]
      exact hticks
    rw [TimerIo.advance_of_enabled (htac ▸ h) n, htac, TimerIo.advance_of_enabled h m,
      TimerIo.advance_of_enabled h (m + n), TimerIo.iterate_tick_withPhase, ← Function.iterate_add_apply]
    simp only [TimerIo.withPhase, Timer.divAfter, Timer.divAfter_add, Nat.mod_add_mod, Nat.add_assoc,
      Nat.add_comm (((x.timer.timaAcc + m) % _ + n) / _), add_div_of_carried _ _ _ _ (timaThreshold_pos _)]

/-- One crossing of the threshold. -/
theorem TimerIo.tick_of_overflow {x : TimerIo} (h : x.timer.tima = 0xFF) :
    x.tick = { timer := { x.timer with tima := x.timer.tma }, irq := x.irq ||| 0x04 } := if_pos h

theorem TimerIo.tick_of_no_overflow {x : TimerIo} (h : x.timer.tima ≠ 0xFF) :
    x.tick.timer.tima.toNat = x.timer.tima.toNat + 1 ∧ x.tick.irq = x.irq := by
  have hlt : x.timer.tima.toNat ≠ 255 := fun e => h (BitVec.eq_of_toNat_eq e)
  rw [TimerIo.tick, if_neg h]
  refine ⟨?_, rfl⟩
  rw [BitVec.toNat_add_of_lt (by have := x.timer.tima.isLt; simp; omega)]
  rfl

/-- Settles O39: an advance is a number of ticks and the new phases (`TimerIo.advance_of_enabled`,
`TimerIo.advance_of_disabled`). -/
theorem timerAdvanceIsExact : Obligations.TimerAdvanceIsExact := by
  unfold Obligations.TimerAdvanceIsExact
  intro x n t y rate
  have hrate : rate = timaThreshold x.timer.tac :=
    (congrArg (fun k : Nat => match k with | 0 => 1024 | 1 => 16 | 2 => 64 | _ => 256) (fieldOf_zero_two t.tac)).symm
  rw [hrate]
  unfold t y
  have hdiv : (x.timer.divAfter n).toNat = (x.timer.div.toNat + (x.timer.divAcc + n) / 256) % 256 := by
    simp [Timer.divAfter]
  refine ⟨fun m => x.advance_advance m n, ?_⟩
  cases h : bitOf x.timer.tac 2 with
  | false =>
    rw [TimerIo.advance_of_disabled h]
    exact ⟨hdiv, rfl, rfl, rfl, fun _ => ⟨rfl, rfl, rfl⟩, fun hon => absurd (hon.symm.trans h) Bool.noConfusion⟩
  | true =>
    have hframe := TimerIo.iterate_tick_timer ((x.timer.timaAcc + n) / timaThreshold x.timer.tac) x
    have htma := congrArg Timer.tma hframe
    have htac := congrArg Timer.tac hframe
    rw [TimerIo.advance_of_enabled h]
    refine ⟨hdiv, rfl, htma, htac,
      fun hoff => absurd (h.symm.trans hoff) Bool.noConfusion, fun _ => ⟨rfl, fun hbelow => ?_, fun hlow hhigh => ?_⟩⟩
    · rw [Nat.div_eq_of_lt hbelow]
      exact ⟨rfl, rfl⟩
    · rw [Nat.div_eq_of_lt_le (k := 1) (by omega) (by omega)]
      refine ⟨fun hfull => ?_, TimerIo.tick_of_no_overflow⟩
      rw [Function.iterate_one, TimerIo.tick_of_overflow hfull]
      exact ⟨rfl, rfl⟩

/-! ## The joypad (rules R420 to R424) -/

/-- Between two states no entry and no event is taken from the host. -/
theorem keptByCore_inputs (ticks : List HostTick) (events : List ButtonEvent) :
    KeptByCore fun s => s.host.ticks = ticks ∧ s.host.events = events where
  cpu _ _ _ h := h
  modes _ _ _ _ _ h := h
  flags _ _ h := h
  write s t a v h hw := by
    rw [State.writeByte_frame s t a v hw]
    exact h
  clocks s n h := ⟨(s.advanceClocks_inputs n).1.trans h.1, (s.advanceClocks_inputs n).2.trans h.2⟩

theorem State.pollJoypad_of_nil {s : State} (h : s.host.events = []) : s.pollJoypad = s := by
  unfold State.pollJoypad
  rw [h]

theorem State.pollJoypad_of_cons {s : State} {ev : ButtonEvent} {rest : List ButtonEvent}
    (h : s.host.events = ev :: rest) :
    s.pollJoypad = ({ s with host := { s.host with events := rest } } : State).applyButton ev := by
  unfold State.pollJoypad
  rw [h]

/-- A poll takes the first event, and no entry. -/
theorem State.pollJoypad_inputs (s : State) :
    s.pollJoypad.host.ticks = s.host.ticks ∧ s.pollJoypad.host.events = s.host.events.tail := by
  cases h : s.host.events with
  | nil => rw [State.pollJoypad_of_nil h, h]; exact ⟨rfl, rfl⟩
  | cons ev rest => rw [State.pollJoypad_of_cons h]; exact ⟨rfl, rfl⟩

theorem State.hostBoundary_inputs (s : State) :
    s.hostBoundary.2.host.ticks = s.host.ticks.tail ∧
    s.hostBoundary.2.host.events = s.host.events ++ (s.host.ticks.head?.map HostTick.arrivals).getD [] := by
  unfold State.hostBoundary
  cases h : s.host.ticks with
  | nil => exact ⟨h, (List.append_nil _).symm⟩
  | cons tick rest => exact ⟨rfl, rfl⟩

/-- A step past the boundary takes one entry and one event. -/
theorem State.PastBoundary.inputs {s t : State} (hs : s.PastBoundary) (hstep : step s = .next t) (ht : t.Alive) :
    t.host.ticks = s.host.ticks.tail ∧
    t.host.events = (s.host.events ++ (s.host.ticks.head?.map HostTick.arrivals).getD []).tail := by
  obtain ⟨hstop, hpause, -⟩ := hs.eq
  obtain ⟨hticks, hevents⟩ := s.hostBoundary_inputs
  obtain ⟨hticks', hevents'⟩ := s.hostBoundary.2.pollJoypad_inputs
  exact (keptByCore_inputs _ _).stepPastInput hstep ht hstop hpause
    ⟨hticks'.trans hticks, hevents'.trans (congrArg List.tail hevents)⟩

/-- Steps past the boundary agree where their inputs leave one state. -/
theorem step_congr_of_afterInput {s u : State} (hs : s.PastBoundary) (hu : u.PastBoundary)
    (h : s.afterInput = u.afterInput) : step s = step u := by
  rw [step_pastBoundary hs, step_pastBoundary hu, h]

theorem State.PastBoundary.of_no_ticks {s : State} (hrun : s.run = .running) (h : s.host.ticks = []) :
    s.PastBoundary :=
  ⟨hrun, fun tick rest e => by rw [h] at e; cases e⟩

theorem State.afterInput_of_no_ticks {s : State} (h : s.host.ticks = []) : s.afterInput = s.pollJoypad := by
  unfold State.afterInput
  rw [h]

theorem State.afterInput_of_tick {s : State} {tick : HostTick} {rest : List HostTick}
    (h : s.host.ticks = tick :: rest) : s.afterInput =
      State.pollJoypad { s with host := { s.host with ticks := rest, events := s.host.events ++ tick.arrivals } } := by
  unfold State.afterInput
  rw [h]

theorem step_of_one_event {s : State} {ev : ButtonEvent} (hrun : s.run = .running) (hticks : s.host.ticks = [])
    (hevents : s.host.events = [ev]) : step s = step s.pollJoypad := by
  obtain ⟨hticks', hevents'⟩ := s.pollJoypad_inputs
  rw [hticks] at hticks'
  rw [hevents] at hevents'
  have hrun' : s.pollJoypad.run = .running := by
    rw [State.pollJoypad_of_cons hevents]
    exact hrun
  refine step_congr_of_afterInput (.of_no_ticks hrun hticks) (.of_no_ticks hrun' hticks') ?_
  rw [State.afterInput_of_no_ticks hticks, State.afterInput_of_no_ticks hticks', State.pollJoypad_of_nil hevents']

theorem step_of_one_tick {s : State} {tick : HostTick} (hrun : s.run = .running) (hticks : s.host.ticks = [tick])
    (hstop : tick.stopFlag = false) (hpause : tick.pauseFlag = false) :
    step s = step { s with host := { s.host with ticks := [], events := s.host.events ++ tick.arrivals } } := by
  have hs : s.PastBoundary := ⟨hrun, fun _ _ e => by
    rw [hticks] at e
    cases e
    exact ⟨hstop, hpause⟩⟩
  exact step_congr_of_afterInput hs (.of_no_ticks hrun rfl)
    ((State.afterInput_of_tick hticks).trans (State.afterInput_of_no_ticks rfl).symm)

theorem Pressed.get_set (p : Pressed) (btn other : Button) (v : Bool) :
    (p.set btn v).get other = if other = btn then v else p.get other := by
  cases btn <;> cases other <;> rfl

theorem requestsInput_iff (onRelease old new : Bool) :
    requestsInput onRelease old new = true ↔ old ≠ new ∧ (new = true ∨ onRelease = true) := by
  simp [requestsInput]

/-- One event (rules R421, R422, R424). -/
theorem State.applyButton_ifReg (s : State) (ev : ButtonEvent) {k : Nat} (hk : k < 8) :
    (s.applyButton ev).ifReg.getLsbD k = (s.ifReg.getLsbD k ||
      decide (k = 4 ∧ s.joypad.pressed.get ev.button ≠ ev.pressed ∧
        (ev.pressed = true ∨ s.params.joypadIrqOnRelease = true))) := by
  simp only [State.applyButton, ← requestsInput_iff]
  cases h : requestsInput s.params.joypadIrqOnRelease (s.joypad.pressed.get ev.button) ev.pressed
  · simp
  · simp [getLsbD_requestIrq _ hk]

/-- Settles O38: a step past the boundary keeps what its inputs leave of the host's lists (`keptByCore_inputs`), and is
the step of any state with the same `afterInput`; an event and P1 are told button by button and bit by bit. -/
theorem joypadEventsAndReads : Obligations.JoypadEventsAndReads := by
  unfold Obligations.JoypadEventsAndReads
  intro s
  refine ⟨fun hs t hstep ht => hs.inputs hstep ht, fun ev => step_of_one_event, fun tick => step_of_one_tick,
    State.pollJoypad_of_nil, fun ev rest hevents => ?_, fun hmap => ?_, fun hmap v => ?_⟩
  · rw [State.pollJoypad_of_cons hevents]
    refine ⟨rfl, ?_, fun btn hbtn => ?_, fun k hk => State.applyButton_ifReg _ ev hk⟩
    · exact (Pressed.get_set _ _ _ _).trans (if_pos rfl)
    · exact (Pressed.get_set _ _ _ _).trans (if_neg hbtn)
  · exact ⟨_, (State.access_p1 (hmap.target_unit (a := 0xFF00) (by decide) rfl)).1, highNibble_or_nibbleOf _ _ _ _ _⟩
  · refine ⟨_, fun k hk hk8 => ?_, (State.access_p1 (hmap.target_unit (a := 0xFF00) (by decide) rfl)).2 v⟩
    rw [getLsbD_mergeBits, getLsbD_highNibbleMask hk8, if_pos (by simpa using hk)]

/-! ## The status interrupt (rule R455) -/

/-- Settles O43: the two branches of `PpuIo.updateStat`. -/
theorem statusInterruptOnRisingLineOnly : Obligations.StatusInterruptOnRisingLineOnly := by
  unfold Obligations.StatusInterruptOnRisingLineOnly
  intro x
  refine ⟨rfl, rfl, fun hnow hold => if_pos ?_, fun h => if_neg ?_⟩
  · simp only [Bool.and_eq_true, Bool.not_eq_true']
    exact ⟨hnow, hold⟩
  · simp only [Bool.and_eq_true, Bool.not_eq_true', not_and, Bool.not_eq_false]
    rcases h with hnow | hold
    · exact fun hcond => absurd (hcond.symm.trans hnow) Bool.noConfusion
    · exact fun _ => hold

end Sys2Proof.Machine
end

section
/-! SUPPORT. The registers of the display and of the sound unit through the bus, and the copy that a write of DMA
makes. -/

namespace Sys2Proof.Machine

/-! ## Reading and writing a register at its address -/

section
variable {s : State} {a : Word} {n : Nat}

/-- Register `r` of the display (rules R432, R433). -/
theorem State.access_display {r : PpuReg} (ht : s.target a = some (.display, n)) (hn : 0xFF40 ≤ n)
    (hr : ppuRegAt n = some r) :
    s.readByte a = .ok (s.ppu.readReg r) ∧ ∀ v, s.writeByte a v = s.writePpuReg r v := by
  have hvram : ¬ (0x8000 ≤ n ∧ n < 0xA000) := by omega
  have hoam : ¬ (0xFE00 ≤ n ∧ n < 0xFEA0) := by omega
  refine ⟨(State.readByte_of_target ht).trans ?_, fun v => (State.writeByte_of_target ht).trans ?_⟩
  · simp only [State.unitRead, Ppu.readAt, if_neg hvram, if_neg hoam, hr]
  · simp only [State.unitWrite, State.writePpu, if_neg hvram, if_neg hoam, hr]

/-- Register `q` of the sound unit (rules R491, R492). -/
theorem State.access_sound {q : ApuReg} (ht : s.target a = some (.sound, n)) (hn : n < 0xFF30)
    (hq : apuRegAt n = some q) : s.readByte a = .ok (s.apu.readReg q) ∧
    ∀ v, s.writeByte a v = .done () { s with apu := s.apu.writeReg q v } := by
  have hwave : ¬ (0xFF30 ≤ n ∧ n < 0xFF40) := by omega
  refine ⟨(State.readByte_of_target ht).trans ?_, fun v => (State.writeByte_of_target ht).trans ?_⟩
  · simp only [State.unitRead, Apu.readAt, if_neg hwave, hq]
  · simp only [State.unitWrite, Apu.writeAt, if_neg hwave, hq]

/-- Byte `k` of wave RAM (rule R66). -/
theorem State.access_wave {k : Nat} (ht : s.target a = some (.sound, 0xFF30 + k)) (hk : k < 16) :
    s.readByte a = .ok (s.apu.wave.read k) ∧
    ∀ v, s.writeByte a v = .done () { s with apu := { s.apu with wave := s.apu.wave.write k v } } := by
  have hwave : 0xFF30 ≤ 0xFF30 + k ∧ 0xFF30 + k < 0xFF40 := by omega
  refine ⟨(State.readByte_of_target ht).trans ?_, fun v => (State.writeByte_of_target ht).trans ?_⟩
  · simp only [State.unitRead, Apu.readAt, if_pos hwave, Nat.add_sub_cancel_left]
  · simp only [State.unitWrite, Apu.writeAt, if_pos hwave, Nat.add_sub_cancel_left]

/-- Byte `k` of the sprite table (rule R431). -/
theorem State.readByte_oam {k : Nat} (ht : s.target a = some (.display, 0xFE00 + k)) (hk : k < 160) :
    s.readByte a = .ok (s.ppu.oam.read k) := by
  have hvram : ¬ (0x8000 ≤ 0xFE00 + k ∧ 0xFE00 + k < 0xA000) := by omega
  rw [State.readByte_of_target ht]
  simp only [State.unitRead, Ppu.readAt, if_neg hvram, if_pos (show 0xFE00 ≤ 0xFE00 + k ∧ 0xFE00 + k < 0xFEA0 by omega),
    Nat.add_sub_cancel_left]

end

/-! ## The display's registers -/

/-- STAT as read (rule R432). -/
theorem Ppu.readReg_stat (p : Ppu) :
    (∀ i, 3 ≤ i → (p.readReg .stat).getLsbD i = p.stat.getLsbD i) ∧ (p.readReg .stat).getLsbD 2 = p.coin ∧
    (p.readReg .stat).toNat % 4 = p.mode.code.toNat := by
  have hmask : ∀ i < 8, (0xF8 : Byte).getLsbD i = decide (3 ≤ i) := by decide
  have hcoin : ∀ i < 8, (if p.coin then 4 else 0 : Byte).getLsbD i = (p.coin && decide (i = 2)) := by
    cases p.coin <;> decide
  have hcode : ∀ i < 8, 2 ≤ i → p.mode.code.getLsbD i = false := by cases p.mode <;> decide
  refine ⟨fun i hi => ?_, ?_, ?_⟩
  · by_cases h8 : i < 8
    · rw [Ppu.readReg, BitVec.getLsbD_or, BitVec.getLsbD_or, BitVec.getLsbD_and, hmask i h8, hcoin i h8,
        hcode i h8 (by omega)]
      simp [hi, show i ≠ 2 by omega]
    · rw [BitVec.getLsbD_of_ge _ i (by omega), BitVec.getLsbD_of_ge _ i (by omega)]
  · rw [Ppu.readReg, BitVec.getLsbD_or, BitVec.getLsbD_or, BitVec.getLsbD_and, hmask 2 (by decide), hcoin 2 (by decide),
      hcode 2 (by decide) (by decide)]
    simp
  · have hlow : (p.readReg .stat).setWidth 2 = p.mode.code.setWidth 2 := by
      rw [Ppu.readReg, BitVec.setWidth_or, BitVec.setWidth_or, BitVec.setWidth_and]
      cases p.coin <;> simp
    have hmod : p.mode.code.toNat % 4 = p.mode.code.toNat := by cases p.mode <;> rfl
    rw [← hmod]
    simpa [BitVec.toNat_setWidth] using congrArg BitVec.toNat hlow

section
variable {x : PpuIo} {v : Byte}

/-- The display switched off (rule R472). -/
theorem PpuIo.writeLcdc_of_off (hon : x.ppu.on = true) (hv : bitOf v 7 = false) :
    x.writeLcdc v = ({ x with ppu := { x.ppu with lcdc := v } } : PpuIo).turnOff := by
  simp only [PpuIo.writeLcdc, hon, hv]

/-- The display switched on (rule R473). -/
theorem PpuIo.writeLcdc_of_on (hoff : x.ppu.on = false) (hv : bitOf v 7 = true) :
    x.writeLcdc v = { x with ppu := Ppu.turnOn { x.ppu with lcdc := v } } := by
  simp only [PpuIo.writeLcdc, hoff, hv]

theorem PpuIo.writeLcdc_of_unchanged (h : x.ppu.on = bitOf v 7) :
    x.writeLcdc v = { x with ppu := { x.ppu with lcdc := v } } := by
  cases hv : bitOf v 7 <;> simp only [PpuIo.writeLcdc, h, hv]

/-- No write of LCDC requests an interrupt. -/
theorem PpuIo.writeLcdc_irq : (x.writeLcdc v).irq = x.irq := by
  unfold PpuIo.writeLcdc
  dsimp only
  split <;> rfl

end

/-- Settles O44: each address is that of one register of the display (`State.access_display`), and a write of LCDC is
told by the two values of its bit 7. -/
theorem displayRegisterAccesses : Obligations.DisplayRegisterAccesses := by
  unfold Obligations.DisplayRegisterAccesses
  intro s v hmap
  obtain ⟨lcdcRead, lcdcWrite⟩ :=
    State.access_display (r := .lcdc) (hmap.target_unit (a := 0xFF40) (by decide) rfl) (by decide) rfl
  obtain ⟨statRead, statWrite⟩ :=
    State.access_display (r := .stat) (hmap.target_unit (a := 0xFF41) (by decide) rfl) (by decide) rfl
  obtain ⟨scyRead, scyWrite⟩ :=
    State.access_display (r := .scy) (hmap.target_unit (a := 0xFF42) (by decide) rfl) (by decide) rfl
  obtain ⟨scxRead, scxWrite⟩ :=
    State.access_display (r := .scx) (hmap.target_unit (a := 0xFF43) (by decide) rfl) (by decide) rfl
  obtain ⟨lyRead, lyWrite⟩ :=
    State.access_display (r := .ly) (hmap.target_unit (a := 0xFF44) (by decide) rfl) (by decide) rfl
  obtain ⟨lycRead, lycWrite⟩ :=
    State.access_display (r := .lyc) (hmap.target_unit (a := 0xFF45) (by decide) rfl) (by decide) rfl
  obtain ⟨dmaRead, -⟩ :=
    State.access_display (r := .dma) (hmap.target_unit (a := 0xFF46) (by decide) rfl) (by decide) rfl
  obtain ⟨bgpRead, bgpWrite⟩ :=
    State.access_display (r := .bgp) (hmap.target_unit (a := 0xFF47) (by decide) rfl) (by decide) rfl
  obtain ⟨obp0Read, obp0Write⟩ :=
    State.access_display (r := .obp0) (hmap.target_unit (a := 0xFF48) (by decide) rfl) (by decide) rfl
  obtain ⟨obp1Read, obp1Write⟩ :=
    State.access_display (r := .obp1) (hmap.target_unit (a := 0xFF49) (by decide) rfl) (by decide) rfl
  obtain ⟨wyRead, wyWrite⟩ :=
    State.access_display (r := .wy) (hmap.target_unit (a := 0xFF4A) (by decide) rfl) (by decide) rfl
  obtain ⟨wxRead, wxWrite⟩ :=
    State.access_display (r := .wx) (hmap.target_unit (a := 0xFF4B) (by decide) rfl) (by decide) rfl
  refine ⟨⟨lcdcRead, scyRead, scxRead, lyRead, lycRead, dmaRead, bgpRead, obp0Read, obp1Read, wyRead, wxRead⟩,
    ⟨_, statRead, ?_⟩, ⟨scyWrite v, scxWrite v, lyWrite v, lycWrite v, bgpWrite v, obp0Write v, obp1Write v, wyWrite v,
      wxWrite v⟩, ⟨_, ?_, ?_, statWrite v⟩, ⟨_, lcdcWrite v, ?_, rfl, fun hon hv => ?_, fun hoff hv => ?_, fun h => ?_⟩⟩
  · obtain ⟨hhigh, hcoin, hmode⟩ := s.ppu.readReg_stat
    refine ⟨hhigh, hcoin, fun h => ?_, fun h => ?_, fun h => ?_, fun h => ?_⟩ <;> (rw [hmode, h]; rfl)
  · intro i hi
    by_cases h8 : i < 8
    · rw [getLsbD_mergeBits, if_pos (by revert hi; revert i; decide)]
    · rw [BitVec.getLsbD_of_ge _ i (by omega), BitVec.getLsbD_of_ge _ i (by omega)]
  · intro i hi
    exact (getLsbD_mergeBits _ _ _ _).trans (if_neg (by revert i; decide))
  · exact congrArg (fun irq => ({ s.withPpuIo (s.ppuIo.writeLcdc v) with ifReg := irq } : State))
      (PpuIo.writeLcdc_irq (x := s.ppuIo))
  · have h := PpuIo.writeLcdc_of_off (x := s.ppuIo) hon hv
    exact ⟨congrArg PpuIo.ppu h, congrArg PpuIo.frames h⟩
  · have h := PpuIo.writeLcdc_of_on (x := s.ppuIo) hoff hv
    exact ⟨congrArg PpuIo.ppu h, congrArg PpuIo.frames h⟩
  · have h := PpuIo.writeLcdc_of_unchanged (x := s.ppuIo) h
    exact ⟨congrArg PpuIo.ppu h, congrArg PpuIo.frames h⟩

/-! ## The sound unit's registers -/

theorem fieldOf_low (v : Byte) (n : Nat) : fieldOf v 0 n = v.toNat % 2 ^ n := by simp [fieldOf]

theorem fieldOf_zero_three (v : Byte) : fieldOf v 0 3 = v.toNat % 8 := fieldOf_low v 3

theorem fieldOf_highNibble (v : Byte) : fieldOf v 4 4 = v.toNat / 16 := by
  have := v.isLt
  simp only [fieldOf]
  omega

theorem lengthLoad_eq (v : Byte) : lengthLoad v = 64 - v.toNat % 64 :=
  congrArg (64 - ·) (fieldOf_low v 6)

theorem freqOf_eq (hi lo : Byte) : freqOf hi lo = hi.toNat % 8 * 256 + lo.toNat := by
  rw [freqOf, fieldOf_zero_three]

/-- The trigger bit is no part of the frequency. -/
theorem freqOf_store (hi lo : Byte) : freqOf (hi &&& 0x7F) lo = hi.toNat % 8 * 256 + lo.toNat := by
  have hand : (hi &&& 0x7F).toNat = hi.toNat % 2 ^ 7 := by
    rw [BitVec.toNat_and]
    exact Nat.and_two_pow_sub_one_eq_mod _ 7
  rw [freqOf_eq, hand]
  omega

theorem Pulse.trigger_eq (nrx1 nrx2 : Byte) : Pulse.trigger nrx1 nrx2 =
    { enabled := true, periodAcc := 0, length := 64 - nrx1.toNat % 64, volume := nrx2.toNat / 16
      envCounter := nrx2.toNat % 8, dutyPos := 0 } := by
  rw [Pulse.trigger, lengthLoad_eq, fieldOf_highNibble, fieldOf_zero_three]

section
variable {u : Apu} {v : Byte}

/-- NR52 switched off (rule R493). -/
theorem Apu.switched_off (hoff : u.on = false) : u.switched true = u.disableAll := by simp only [Apu.switched, hoff]

theorem Apu.switched_on (hon : u.on = true) : u.switched false = { u with fsAcc := 0, fsStep := 0 } := by
  simp only [Apu.switched, hon]

theorem Apu.switched_same : u.switched u.on = u := by cases h : u.on <;> simp only [Apu.switched, h]

/-- NR52 as stored: bits 7 to 4 of the byte written (rule R492). -/
theorem ApuRegs.store_nr52 (r : ApuRegs) (v : Byte) :
    (∀ i, 4 ≤ i → (r.store .nr52 v).nr52.getLsbD i = v.getLsbD i) ∧
    (∀ i, i < 4 → (r.store .nr52 v).nr52.getLsbD i = r.nr52.getLsbD i) := by
  have hbit (i : Nat) : (r.store .nr52 v).nr52.getLsbD i = _ := getLsbD_mergeBits 0xF0 r.nr52 v i
  refine ⟨fun i hi => ?_, fun i hi => ?_⟩
  · by_cases h8 : i < 8
    · rw [hbit, getLsbD_highNibbleMask h8, if_pos (decide_eq_true hi)]
    · rw [BitVec.getLsbD_of_ge _ i (by omega), BitVec.getLsbD_of_ge _ i (by omega)]
  · rw [hbit, getLsbD_highNibbleMask (by omega), if_neg (by simpa using hi)]

/-- A write of NR52 (rule R493). -/
theorem Apu.writeReg_nr52 (hon : ({ u with regs := u.regs.store .nr52 v } : Apu).on = bitOf v 7) :
    (u.on = true → bitOf v 7 = false →
      u.writeReg .nr52 v = Apu.disableAll { u with regs := u.regs.store .nr52 v }) ∧
    (u.on = false → bitOf v 7 = true →
      u.writeReg .nr52 v = { u with regs := u.regs.store .nr52 v, fsAcc := 0, fsStep := 0 }) ∧
    (u.on = bitOf v 7 → u.writeReg .nr52 v = { u with regs := u.regs.store .nr52 v }) := by
  unfold Apu.writeReg
  refine ⟨fun hwas hnow => ?_, fun hwas hnow => ?_, fun hsame => ?_⟩
  · rw [hwas]
    exact Apu.switched_off (hon.trans hnow)
  · rw [hwas]
    exact Apu.switched_on (hon.trans hnow)
  · rw [hsame, ← hon]
    exact Apu.switched_same

/-- A write of NRx4 without its trigger bit, or with the unit off, only stores. -/
theorem Apu.writeReg_untriggered (h : u.on = false ∨ bitOf v 7 = false) :
    u.writeReg .nr14 v = { u with regs := { u.regs with nr14 := v &&& 0x7F } } ∧
    u.writeReg .nr24 v = { u with regs := { u.regs with nr24 := v &&& 0x7F } } ∧
    u.writeReg .nr34 v = { u with regs := { u.regs with nr34 := v &&& 0x7F } } ∧
    u.writeReg .nr44 v = { u with regs := { u.regs with nr44 := v &&& 0x7F } } := by
  simp only [Apu.writeReg, ApuRegs.store]
  rcases h with hoff | hbit
  · have hneg : ¬ u.on = true := by simp [hoff]
    refine ⟨?_, ?_, ?_, ?_⟩
    · exact ite_eq_right_iff.2 fun _ => if_neg hneg
    · exact ite_eq_right_iff.2 fun _ => if_neg hneg
    · exact ite_eq_right_iff.2 fun _ => if_neg hneg
    · exact ite_eq_right_iff.2 fun _ => if_neg hneg
  · simp only [hbit, Bool.false_eq_true, if_false, and_self]

section
variable (hon : u.on = true) (hbit : bitOf v 7 = true)
include hon hbit

/-- The triggers of rule R510. -/
theorem Apu.writeReg_trigger1 : u.writeReg .nr14 v =
    { u with
      regs := { u.regs with nr14 := v &&& 0x7F }
      ch1 :=
        { enabled := true, periodAcc := 0, length := 64 - u.regs.nr11.toNat % 64, volume := u.regs.nr12.toNat / 16
          envCounter := u.regs.nr12.toNat % 8, dutyPos := 0 }
      sweep :=
        { shadow := v.toNat % 8 * 256 + u.regs.nr13.toNat, counter := u.regs.nr10.toNat / 16 % 8
          on := decide (u.regs.nr10.toNat / 16 % 8 ≠ 0 ∨ u.regs.nr10.toNat % 8 ≠ 0) } } := by
  rw [← Pulse.trigger_eq, ← freqOf_store, ← fieldOf_zero_three]
  exact (if_pos hbit).trans (if_pos hon)

theorem Apu.writeReg_trigger2 : u.writeReg .nr24 v =
    { u with
      regs := { u.regs with nr24 := v &&& 0x7F }
      ch2 :=
        { enabled := true, periodAcc := 0, length := 64 - u.regs.nr21.toNat % 64, volume := u.regs.nr22.toNat / 16
          envCounter := u.regs.nr22.toNat % 8, dutyPos := 0 } } := by
  rw [← Pulse.trigger_eq]
  exact (if_pos hbit).trans (if_pos hon)

theorem Apu.writeReg_trigger3 : u.writeReg .nr34 v =
    { u with
      regs := { u.regs with nr34 := v &&& 0x7F }
      ch3 := { enabled := bitOf u.regs.nr30 7, periodAcc := 0, length := 256 - u.regs.nr31.toNat, wavePos := 0 } } :=
  (if_pos hbit).trans (if_pos hon)

theorem Apu.writeReg_trigger4 : u.writeReg .nr44 v =
    { u with
      regs := { u.regs with nr44 := v &&& 0x7F }
      ch4 :=
        { enabled := true, periodAcc := 0, length := 64 - u.regs.nr41.toNat % 64, volume := u.regs.nr42.toNat / 16
          envCounter := u.regs.nr42.toNat % 8, lfsr := 0x7FFF } } := by
  rw [← lengthLoad_eq, ← fieldOf_highNibble, ← fieldOf_zero_three]
  exact (if_pos hbit).trans (if_pos hon)

end

end

/-- Settles O48: each address is that of one register of the sound unit (`State.access_sound`) or a byte of wave RAM
(`State.access_wave`), and a write is the register's own. -/
theorem soundRegisterAccesses : Obligations.SoundRegisterAccesses := by
  unfold Obligations.SoundRegisterAccesses
  intro s v hmap u r reads stores
  have register (q : ApuReg) (a : Word) (ha : 0x100 ≤ a.toNat ∧ a.toNat ≠ 0xFF50)
      (howner : defaultOwner a.toNat = some .sound) (hlow : a.toNat < 0xFF30) (hq : apuRegAt a.toNat = some q) :
      reads a (u.readReg q) ∧ stores a (u.writeReg q v) :=
    (State.access_sound (hmap.target_unit ha howner) hlow hq).imp id fun h => h v
  have via {q : ApuReg} {a : Word} {w : Apu} (h : stores a (u.writeReg q v)) (e : u.writeReg q v = w) : stores a w :=
    e ▸ h
  obtain ⟨hstoredHigh, hstoredLow⟩ := r.store_nr52 v
  obtain ⟨hoff, hon, hkept⟩ := Apu.writeReg_nr52 (u := u) (v := v) (hstoredHigh 7 (by decide))
  obtain ⟨nr10Read, nr10Write⟩ := register .nr10 0xFF10 (by decide) rfl (by decide) rfl
  obtain ⟨nr11Read, nr11Write⟩ := register .nr11 0xFF11 (by decide) rfl (by decide) rfl
  obtain ⟨nr12Read, nr12Write⟩ := register .nr12 0xFF12 (by decide) rfl (by decide) rfl
  obtain ⟨nr13Read, nr13Write⟩ := register .nr13 0xFF13 (by decide) rfl (by decide) rfl
  obtain ⟨nr14Read, nr14Write⟩ := register .nr14 0xFF14 (by decide) rfl (by decide) rfl
  obtain ⟨nr21Read, nr21Write⟩ := register .nr21 0xFF16 (by decide) rfl (by decide) rfl
  obtain ⟨nr22Read, nr22Write⟩ := register .nr22 0xFF17 (by decide) rfl (by decide) rfl
  obtain ⟨nr23Read, nr23Write⟩ := register .nr23 0xFF18 (by decide) rfl (by decide) rfl
  obtain ⟨nr24Read, nr24Write⟩ := register .nr24 0xFF19 (by decide) rfl (by decide) rfl
  obtain ⟨nr30Read, nr30Write⟩ := register .nr30 0xFF1A (by decide) rfl (by decide) rfl
  obtain ⟨nr31Read, nr31Write⟩ := register .nr31 0xFF1B (by decide) rfl (by decide) rfl
  obtain ⟨nr32Read, nr32Write⟩ := register .nr32 0xFF1C (by decide) rfl (by decide) rfl
  obtain ⟨nr33Read, nr33Write⟩ := register .nr33 0xFF1D (by decide) rfl (by decide) rfl
  obtain ⟨nr34Read, nr34Write⟩ := register .nr34 0xFF1E (by decide) rfl (by decide) rfl
  obtain ⟨nr41Read, nr41Write⟩ := register .nr41 0xFF20 (by decide) rfl (by decide) rfl
  obtain ⟨nr42Read, nr42Write⟩ := register .nr42 0xFF21 (by decide) rfl (by decide) rfl
  obtain ⟨nr43Read, nr43Write⟩ := register .nr43 0xFF22 (by decide) rfl (by decide) rfl
  obtain ⟨nr44Read, nr44Write⟩ := register .nr44 0xFF23 (by decide) rfl (by decide) rfl
  obtain ⟨nr50Read, nr50Write⟩ := register .nr50 0xFF24 (by decide) rfl (by decide) rfl
  obtain ⟨nr51Read, nr51Write⟩ := register .nr51 0xFF25 (by decide) rfl (by decide) rfl
  obtain ⟨nr52Read, nr52Write⟩ := register .nr52 0xFF26 (by decide) rfl (by decide) rfl
  refine ⟨⟨nr10Read, nr11Read, nr12Read, nr13Read, nr14Read, nr21Read, nr22Read, nr23Read, nr24Read, nr30Read, nr31Read,
      nr32Read, nr33Read, nr34Read, nr41Read, nr42Read, nr43Read, nr44Read, nr50Read, nr51Read⟩,
    ⟨_, nr52Read, ?_⟩, fun k hk => ?_, ⟨nr10Write, nr12Write, nr13Write, nr22Write, nr23Write, nr32Write, nr33Write,
      nr42Write, nr43Write, nr50Write, nr51Write⟩, ?_, ⟨fun hbit => ?_, fun hbit => ?_⟩,
    ⟨(r.store .nr52 v).nr52, hstoredHigh, hstoredLow, fun hwas hnow => ?_, fun hwas hnow => ?_, fun hsame => ?_⟩,
    fun hoff _ _ => if_neg (Bool.not_eq_true _ ▸ hoff), fun hoff => ?_, fun hon hbit => ?_⟩
  · obtain ⟨hhigh, h0, h1, h2, h3⟩ :=
      highNibble_or_nibbleOf r.nr52 u.ch1.enabled u.ch2.enabled u.ch3.enabled u.ch4.enabled
    refine ⟨fun i hi => ?_, h0, h1, h2, h3⟩
    by_cases h8 : i < 8
    · exact hhigh i hi h8
    · rw [BitVec.getLsbD_of_ge _ i (by omega), BitVec.getLsbD_of_ge _ i (by omega)]
  · have ha : (BitVec.ofNat 16 (0xFF30 + k)).toNat = 0xFF30 + k := Nat.mod_eq_of_lt (by omega)
    have howner : defaultOwner (0xFF30 + k) = some .sound := by revert k; decide
    have ht := hmap.target_unit (a := BitVec.ofNat 16 (0xFF30 + k)) (by omega) (ha.symm ▸ howner)
    rw [ha] at ht
    obtain ⟨hread, hwrite⟩ := State.access_wave ht hk
    exact ⟨hread, fun hc => ⟨_, fun j => u.wave.read_write hc.wave k j v, hwrite v⟩⟩
  · dsimp only
    rw [← lengthLoad_eq]
    exact ⟨nr11Write, nr21Write, nr31Write, nr41Write⟩
  · exact via nr30Write (if_pos hbit)
  · exact via nr30Write (if_neg (Bool.not_eq_true _ ▸ hbit))
  · exact via nr52Write (hoff hwas hnow)
  · exact via nr52Write (hon hwas hnow)
  · exact via nr52Write (hkept hsame)
  · obtain ⟨e1, e2, e3, e4⟩ := Apu.writeReg_untriggered hoff
    exact ⟨via nr14Write e1, via nr24Write e2, via nr34Write e3, via nr44Write e4⟩
  · exact ⟨via nr14Write (Apu.writeReg_trigger1 hon hbit), via nr24Write (Apu.writeReg_trigger2 hon hbit),
      via nr34Write (Apu.writeReg_trigger3 hon hbit), via nr44Write (Apu.writeReg_trigger4 hon hbit)⟩

end Sys2Proof.Machine
end

section
/-! SUPPORT. The copy that a write of DMA makes (rule R476): before byte `i` is read, the copy has written below index
`i` only, and no readable page shows it DMA, so each byte read is the one the page held at first. -/

namespace Sys2Proof.Machine

/-- `s` with DMA and the sprite table replaced. -/
def State.withCopied (s : State) (v : Byte) (m : Memory) : State := { s with ppu := { s.ppu with dma := v, oam := m } }

/-- The `i`-th address of page `v`. -/
def pageAddress (v : Byte) (i : Nat) : Word := BitVec.ofNat 16 (256 * v.toNat + i)

theorem pageAddress_toNat (v : Byte) {i : Nat} (hi : i < 160) : (pageAddress v i).toNat = 256 * v.toNat + i :=
  Nat.mod_eq_of_lt (by have := v.isLt; omega)

theorem ppuRegAt_eq_dma {n : Nat} (h : ppuRegAt n = some .dma) : n = 0xFF46 := by
  obtain ⟨l₁, l₂, hl, -⟩ := List.lookup_eq_some_iff.1 h
  have hmem := hl ▸ List.mem_append_right l₁ (List.mem_cons_self (a := (n, PpuReg.dma)) (l := l₂))
  simpa using hmem

/-- A display whose DMA and sprite table are replaced answers the same but for those. -/
theorem Ppu.readAt_withCopied (p : Ppu) (v : Byte) (m : Memory) {n : Nat} (hdma : n ≠ 0xFF46)
    (hoam : 0xFE00 ≤ n → n < 0xFEA0 → m.read (n - 0xFE00) = p.oam.read (n - 0xFE00)) :
    ({ p with dma := v, oam := m } : Ppu).readAt n = p.readAt n := by
  unfold Ppu.readAt
  split_ifs with hvram htable
  · rfl
  · exact congrArg Except.ok (hoam htable.1 htable.2)
  · cases h : ppuRegAt n with
    | none => rfl
    | some r =>
      cases r with
      | dma => exact absurd (ppuRegAt_eq_dma h) hdma
      | _ => rfl

section
variable {s : State} {v : Byte} {m : Memory} {i : Nat}

theorem State.MapSound.target_snd (hmap : s.MapSound) {a : Word} {u : BusUnit} {k : Nat}
    (h : s.target a = some (u, k)) : k = a.toNat := by
  rw [State.MapSound.target_eq hmap] at h
  obtain ⟨_, -, h⟩ := Option.map_eq_some_iff.1 h
  exact (congrArg Prod.snd h).symm

/-- The copy reads byte `i` of its page as it was at first. -/
theorem State.MapSound.readByte_withCopied (hmap : s.MapSound) (hi : i < 160) (hdma : 256 * v.toNat + i ≠ 0xFF46)
    (hoam : m.read i = s.ppu.oam.read i) :
    (s.withCopied v m).readByte (pageAddress v i) = s.readByte (pageAddress v i) := by
  have ht : (s.withCopied v m).target (pageAddress v i) = s.target (pageAddress v i) := rfl
  unfold State.readByte
  rw [ht]
  cases h : s.target (pageAddress v i) with
  | none => rfl
  | some c =>
    obtain ⟨u, k⟩ := c
    have hk : k = 256 * v.toNat + i := (hmap.target_snd h).trans (pageAddress_toNat v hi)
    cases u with
    | display =>
      refine s.ppu.readAt_withCopied v m (hk ▸ hdma) fun hlow hhigh => ?_
      rw [show k - 0xFE00 = i by omega]
      exact hoam
    | _ => rfl

/-- A page readable below `i` does not show DMA at `i`: of page 0xFF the second byte cannot be read. -/
theorem State.MapSound.page_ne_dma (hmap : s.MapSound) (hi : i < 160)
    (h : ∀ k, k < i → ∃ b, s.readByte (pageAddress v k) = .ok b) : 256 * v.toNat + i ≠ 0xFF46 := by
  intro he
  have haddr : pageAddress v 1 = 0xFF01 := by
    apply BitVec.eq_of_toNat_eq
    rw [pageAddress_toNat v (by decide), show v.toNat = 255 by omega]
    rfl
  have ht : s.target (pageAddress v 1) = none := by
    rw [haddr, hmap.target_default (.inr (by decide)), defaultOwner_unmapped (by unfold Unmapped; decide)]
    rfl
  obtain ⟨b, hb⟩ := h 1 (by omega)
  rw [(State.access_unowned (v := v) ht).1] at hb
  cases hb

/-- The copy after its first `i` bytes. -/
structure State.CopiedBelow (s : State) (v : Byte) (i : Nat) (m : Memory) : Prop where
  canonical : m.wf = true
  done : ∀ k, k < i → s.readByte (pageAddress v k) = .ok (m.read k)
  rest : ∀ k, i ≤ k → m.read k = s.ppu.oam.read k
  loop : State.oamCopy v 160 0 (s.withCopied v s.ppu.oam) = State.oamCopy v (160 - i) i (s.withCopied v m)

/-- The loop of rule R476 reaches byte `i` where every byte before it can be read. -/
theorem State.MapSound.copiedBelow (hmap : s.MapSound) (hc : s.MemoriesCanonical) : ∀ i, i ≤ 160 →
    (∀ k, k < i → ∃ b, s.readByte (pageAddress v k) = .ok b) → ∃ m, s.CopiedBelow v i m
  | 0, _, _ => ⟨s.ppu.oam, hc.oam, fun _ h => absurd h (Nat.not_lt_zero _), fun _ _ => rfl, rfl⟩
  | i + 1, hi, h => by
    have hbelow : ∀ k, k < i → ∃ b, s.readByte (pageAddress v k) = .ok b := fun k hk => h k (by omega)
    obtain ⟨m, hm⟩ := State.MapSound.copiedBelow hmap hc i (by omega) hbelow
    obtain ⟨b, hb⟩ := h i (by omega)
    have hread := hmap.readByte_withCopied (by omega) (hmap.page_ne_dma (by omega) hbelow) (hm.rest i (Nat.le_refl i))
    refine ⟨m.write i b, Memory.write_wf i b m hm.canonical, fun k hk => ?_, fun k hk => ?_, ?_⟩
    · rcases Nat.lt_or_ge k i with hlt | hge
      · rw [hm.done k hlt, Memory.read_write_other (by omega)]
      · obtain rfl : k = i := by omega
        rw [hb, Memory.read_write_same _ _ _ hm.canonical]
    · rw [Memory.read_write_other (by omega), hm.rest k (by omega)]
    · rw [hm.loop, show 160 - i = 160 - (i + 1) + 1 by omega, State.oamCopy]
      rw [show (s.withCopied v m).readByte (BitVec.ofNat 16 (256 * v.toNat + i)) = .ok b from hread.trans hb]
      rfl

end

/-- Settles O46: the loop reaches the end, or the first byte that cannot be read (`State.MapSound.copiedBelow`). -/
theorem oamCopyCopiesPage : Obligations.OamCopyCopiesPage := by
  unfold Obligations.OamCopyCopiesPage
  intro s v hmap hc
  have hwrite := (State.access_display (r := .dma) (hmap.target_unit (a := 0xFF46) (by decide) rfl) (by decide) rfl).2 v
  replace hwrite : s.writeByte 0xFF46 v = State.oamCopy v 160 0 (s.withCopied v s.ppu.oam) := hwrite
  refine ⟨fun h => ?_, fun i c hi h herror => ?_⟩
  · obtain ⟨m, hm⟩ := hmap.copiedBelow hc 160 (Nat.le_refl _) h
    refine ⟨_, hwrite.trans hm.loop, rfl, fun i hi => ?_, rfl⟩
    have ha : (BitVec.ofNat 16 (0xFE00 + i)).toNat = 0xFE00 + i := Nat.mod_eq_of_lt (by omega)
    have howner : defaultOwner (0xFE00 + i) = some .display := by
      simp (disch := omega) only [defaultOwner, defaultUnits, claimAt_hit, claimAt_miss]
      rfl
    have ht := State.MapSound.target_unit (s := s.withCopied v m) hmap (a := BitVec.ofNat 16 (0xFE00 + i)) (by omega)
      (ha.symm ▸ howner)
    rw [ha] at ht
    exact (State.readByte_oam ht hi).trans (hm.done i hi).symm
  · obtain ⟨m, hm⟩ := hmap.copiedBelow hc i (Nat.le_of_lt hi) h
    have hread := hmap.readByte_withCopied hi (hmap.page_ne_dma hi h) (hm.rest i (Nat.le_refl i))
    rw [hwrite, hm.loop, show 160 - i = 160 - (i + 1) + 1 by omega, State.oamCopy]
    rw [show (s.withCopied v m).readByte (BitVec.ofNat 16 (256 * v.toNat + i)) = .error c from hread.trans herror]
    exact ⟨_, rfl⟩

end Sys2Proof.Machine
end

section
/-! SUPPORT. The boot overlay and its BOOTOFF write, the control writes of the bank controllers, and construction. -/

namespace Sys2Proof.Machine

/-! ## The boot overlay (rules R600 to R602) -/

section
variable {s : State} (hmap : s.MapSound) (hboot : s.boot.isSome = true) {a : Word}
include hmap hboot

theorem State.MapSound.target_bootRom (hmapped : s.bootMapped = true) (ha : a.toNat < 0x100) :
    s.target a = some (.bootRom, a.toNat) := by
  rw [State.MapSound.target_eq hmap, hboot, hmapped]
  simp (disch := omega) only [busTable, bootOverlay, if_true, List.cons_append, claimAt_hit]
  rfl

theorem State.MapSound.target_bootOff : s.target 0xFF50 = some (.bootOff, 0xFF50) := by
  rw [State.MapSound.target_eq hmap, hboot]
  cases s.bootMapped <;> rfl

/-- The map after the BOOTOFF write (rule R601). -/
theorem State.MapSound.unmapped (hmapped : s.bootMapped = true) :
    State.MapSound { s with bootMapped := false, busMap := .direct 0x0000 0x00FF .cart :: s.busMap } := by
  unfold State.MapSound State.MapIs at hmap ⊢
  dsimp only
  rw [hmap, hboot, hmapped]
  rfl

end

theorem State.writeBootUnit_inRange {s : State} (hboot : s.boot.isSome = true) (w : Access) :
    s.writeBootUnit true w = w := by
  simp only [State.writeBootUnit, hboot]

/-- Settles O54: the boot ROM's own answers at the addresses the overlay gives it, and the one claim that the BOOTOFF
write puts over it. -/
theorem bootOffUnmapsBootRom : Obligations.BootOffUnmapsBootRom := by
  unfold Obligations.BootOffUnmapsBootRom
  intro s img v hmap himg
  have hboot : s.boot.isSome = true := by rw [himg]; rfl
  have htarget := hmap.target_bootOff hboot
  have hwrite : s.writeByte 0xFF50 v = s.writeBootOff :=
    (State.writeByte_of_target htarget).trans (State.writeBootUnit_inRange hboot _)
  refine ⟨?_, fun hmapped => ⟨fun a ha => ?_, _, hwrite.trans (if_pos hmapped), hmap.unmapped hboot hmapped, rfl,
    fun a ha => ?_, fun a ha => ?_⟩, fun hunmapped => hwrite.trans (if_neg (Bool.not_eq_true _ ▸ hunmapped))⟩
  · exact (State.readByte_of_target htarget).trans (if_pos (.inr rfl))
  · have ht := hmap.target_bootRom hboot hmapped ha
    refine ⟨(State.readByte_of_target ht).trans ?_, (State.writeByte_of_target ht).trans ?_⟩
    · simp only [State.unitRead, himg, if_pos ha]
    · rw [State.unitWrite, decide_eq_true ha, State.writeBootUnit_inRange hboot]
  · have ht := (hmap.unmapped hboot hmapped).target_rom (a := a) (by omega) (.inr (.inl rfl))
    rw [State.readByte_cart ht, Cart.readAt_rom _ (by omega)]
    exact congrArg _ (if_pos (by omega))
  · have ht : State.target { s with bootMapped := false, busMap := .direct 0x0000 0x00FF .cart :: s.busMap } a =
        s.target a := congrArg (Option.map _) (claimAt_miss _ _ (by omega))
    unfold State.readByte
    rw [ht]
    cases s.target a <;> rfl

/-! ## The control writes (rules R570 to R583) -/

theorem enablesRam_eq (v : Byte) : enablesRam v = decide (v.toNat % 16 = 10) := by
  have hand : (v &&& 0x0F).toNat = v.toNat % 2 ^ 4 := by
    rw [BitVec.toNat_and]
    exact Nat.and_two_pow_sub_one_eq_mod _ 4
  rw [enablesRam, decide_eq_decide, ← BitVec.toNat_inj, hand]
  rfl

theorem bankField_eq (v : Byte) (n : Nat) :
    bankField v n = if v.toNat % 2 ^ n = 0 then 1 else v.toNat % 2 ^ n := by
  rw [bankField, fieldOf_low]

theorem Cart.mbc1Banks_eq (c : Cart) : c.mbc1Banks =
    { c with
      romBank := if c.mode then c.romBank % 32 else c.bank2 * 32 + c.romBank % 32
      ramBank := if c.mode then c.bank2 else 0 } := by
  unfold Cart.mbc1Banks
  cases c.mode <;> rfl

section
variable {c : Cart} {a : Nat} {v : Byte}

/-- MBC1 (rules R571 to R575). -/
theorem Cart.control_mbc1_rom (hk : c.kind = .mbc1) (hlow : 0x2000 ≤ a) (hhigh : a < 0x4000) : c.control a v =
    { c with
      romBank := if c.mode then bankField v 5 else c.bank2 * 32 + bankField v 5
      ramBank := if c.mode then c.bank2 else 0 } := by
  have hfield : (c.romBank / 32 % 4 * 32 + bankField v 5) % 32 = bankField v 5 := by
    have := bankField_lt v (n := 5) (by decide)
    omega
  simp only [Cart.control, hk, Cart.mbc1Control, if_neg (show ¬ a < 0x2000 by omega), if_pos hhigh, Cart.mbc1Banks_eq,
    hfield]

theorem Cart.control_mbc1_ram (hk : c.kind = .mbc1) (hlow : 0x4000 ≤ a) (hhigh : a < 0x6000) : c.control a v =
    { c with
      bank2 := v.toNat % 4
      romBank := if c.mode then c.romBank % 32 else v.toNat % 4 * 32 + c.romBank % 32
      ramBank := if c.mode then v.toNat % 4 else 0 } := by
  simp only [Cart.control, hk, Cart.mbc1Control, if_neg (show ¬ a < 0x2000 by omega),
    if_neg (show ¬ a < 0x4000 by omega), if_pos hhigh, Cart.mbc1Banks_eq, fieldOf_zero_two]

theorem Cart.control_mbc1_mode (hk : c.kind = .mbc1) (hlow : 0x6000 ≤ a) : c.control a v =
    { c with
      mode := bitOf v 0
      romBank := if bitOf v 0 then c.romBank % 32 else c.bank2 * 32 + c.romBank % 32
      ramBank := if bitOf v 0 then c.bank2 else 0 } := by
  simp only [Cart.control, hk, Cart.mbc1Control, if_neg (show ¬ a < 0x2000 by omega),
    if_neg (show ¬ a < 0x4000 by omega), if_neg (show ¬ a < 0x6000 by omega), Cart.mbc1Banks_eq]

/-- MBC2 (rule R578). -/
theorem Cart.control_mbc2 (hk : c.kind = .mbc2) : c.control a v =
    if a < 0x4000 then
      if a / 256 % 2 = 0 then { c with ramEnable := enablesRam v } else { c with romBank := bankField v 4 }
    else c := by
  simp only [Cart.control, hk, Cart.mbc2Control]

/-- MBC3 (rules R581 to R583). -/
theorem Cart.control_mbc3 (hk : c.kind = .mbc3) (hlow : 0x2000 ≤ a) : c.control a v =
    if a < 0x4000 then { c with romBank := bankField v 7 }
    else if a < 0x6000 then c.mbc3Select v else c.mbc3Latch v := by
  simp only [Cart.control, hk, Cart.mbc3Control, if_neg (show ¬ a < 0x2000 by omega)]

theorem Cart.mbc3Select_ram (h : v.toNat ≤ 3) :
    c.mbc3Select v = { c with ramBank := v.toNat, rtcSel := .ramBank v.toNat } := by
  unfold Cart.mbc3Select
  obtain h | h | h | h : v.toNat = 0 ∨ v.toNat = 1 ∨ v.toNat = 2 ∨ v.toNat = 3 := by omega
  all_goals simp only [h]

theorem Cart.mbc3Select_clock (hlow : 8 ≤ v.toNat) (hhigh : v.toNat ≤ 12) :
    ∃ q, [RtcReg.s, .m, .h, .dl, .dh][v.toNat - 8]? = some q ∧ c.mbc3Select v = { c with rtcSel := .reg q } := by
  unfold Cart.mbc3Select
  obtain h | h | h | h | h : v.toNat = 8 ∨ v.toNat = 9 ∨ v.toNat = 10 ∨ v.toNat = 11 ∨ v.toNat = 12 := by omega
  all_goals simp only [h]; exact ⟨_, rfl, rfl⟩

theorem Cart.mbc3Select_ignored (h : 4 ≤ v.toNat ∧ v.toNat ≤ 7 ∨ 13 ≤ v.toNat) : c.mbc3Select v = c := by
  unfold Cart.mbc3Select
  split
  case h_10 => rfl
  all_goals omega

end

/-- Settles O51: the branches of each controller's control write, its fields as numbers. -/
theorem bankSelectWrites : Obligations.BankSelectWrites := by
  unfold Obligations.BankSelectWrites
  intro c a v ha hrom hbank2 field d
  refine ⟨fun hk => ?_, fun hk hlow => ?_, fun hk hlow hhigh => ?_, fun hk hlow hhigh => ?_, fun hk hlow => ?_,
    fun hk hlow => ⟨fun heven => ?_, fun hodd => ?_⟩, fun hk hhigh => ?_, fun hk hlow hhigh => ?_,
    fun hk hlow hhigh => ?_, fun hk hlow => ?_⟩
  · simp only [d, Cart.control, hk]
  · rw [← enablesRam_eq]
    rcases hk with hk | hk
    · simp only [d, Cart.control, hk, Cart.mbc1Control, if_pos hlow]
    · simp only [d, Cart.control, hk, Cart.mbc3Control, if_pos hlow]
  · exact (Cart.control_mbc1_rom hk hlow hhigh).trans (congrArg (fun b => { c with
      romBank := if c.mode then b else c.bank2 * 32 + b
      ramBank := if c.mode then c.bank2 else 0 }) (bankField_eq v 5))
  · exact Cart.control_mbc1_ram hk hlow hhigh
  · exact Cart.control_mbc1_mode hk hlow
  · rw [← enablesRam_eq]
    exact (Cart.control_mbc2 hk).trans ((if_pos hlow).trans (if_pos heven))
  · exact (Cart.control_mbc2 hk).trans ((if_pos hlow).trans ((if_neg (by omega)).trans
      (congrArg (fun b => { c with romBank := b }) (bankField_eq v 4))))
  · exact (Cart.control_mbc2 hk).trans (if_neg (by omega))
  · exact (Cart.control_mbc3 hk hlow).trans ((if_pos hhigh).trans
      (congrArg (fun b => { c with romBank := b }) (bankField_eq v 7)))
  · have hd : d = c.mbc3Select v :=
      (Cart.control_mbc3 hk (by omega)).trans ((if_neg (by omega)).trans (if_pos hhigh))
    rw [hd]
    exact ⟨Cart.mbc3Select_ram, Cart.mbc3Select_clock, Cart.mbc3Select_ignored⟩
  · have hd : d = c.mbc3Latch v :=
      (Cart.control_mbc3 hk (by omega)).trans ((if_neg (by omega)).trans (if_neg (by omega)))
    rw [hd]
    refine ⟨fun hlatch => ?_, fun hlatch => ?_⟩
    · rw [Cart.mbc3Latch, if_pos hlatch]
    · rw [Cart.mbc3Latch, if_neg hlatch]

/-! ## Construction (rules R561 to R564, R611) -/

theorem Memory.read_ofBytes_of_ge :
    ∀ (bs : List Byte) (i k : Nat), bs.length ≤ k → (Memory.ofBytes i bs).read (i + k) = 0
  | [], _, _, _ => rfl
  | v :: rest, i, k + 1, h => by
    rw [Memory.ofBytes, Memory.read_write_other (by omega), show i + (k + 1) = i + 1 + k by omega]
    exact Memory.read_ofBytes_of_ge rest (i + 1) k (Nat.le_of_succ_le_succ h)

/-- Past the last byte the array holds the fill. -/
theorem Memory.read_ofBytes_getD (bs : List Byte) (k : Nat) : (Memory.ofBytes 0 bs).read k = bs.getD k 0 := by
  rw [← Nat.zero_add k]
  rcases Nat.lt_or_ge k bs.length with hlt | hge
  · rw [Memory.read_ofBytes bs 0 k hlt, Nat.zero_add]
  · rw [Memory.read_ofBytes_of_ge bs 0 k hge, Nat.zero_add, List.getD_eq_default _ _ hge]

theorem getD_take_of_lt {bs : List Byte} {k n : Nat} (h : k < n) : (bs.take n).getD k 0 = bs.getD k 0 := by
  rw [List.getD_eq_getElem?_getD, List.getElem?_take_of_lt h, ← List.getD_eq_getElem?_getD]

/-- The first contents of the cartridge's RAM (rules R564, R605). -/
theorem initialRam_read (kind : MbcKind) (bs : List Byte) {k n : Nat} (h : k < n) :
    (initialRam kind n bs).read k = if kind = .mbc2 then bs.getD k 0 &&& 0x0F else bs.getD k 0 := by
  cases kind with
  | mbc2 =>
    rw [if_pos rfl, initialRam, Memory.read_ofBytes_getD, ← getD_take_of_lt h (bs := bs)]
    exact List.getD_map (bs.take n) 0 fun v => v &&& 0x0F
  | _ =>
    rw [if_neg (by decide)]
    exact (Memory.read_ofBytes_getD _ k).trans (getD_take_of_lt h)

/-- The controller's kind by the byte at 0x147 (rule R563). -/
theorem kindOfCode_iff (b : Byte) :
    (kindOfCode b = some .null ↔ b.toNat = 0) ∧ (kindOfCode b = some .mbc1 ↔ b.toNat = 1 ∨ b.toNat = 2 ∨ b.toNat = 3) ∧
    (kindOfCode b = some .mbc2 ↔ b.toNat = 5 ∨ b.toNat = 6) ∧
    (kindOfCode b = none ↔ ¬ (b.toNat ∈ [0, 1, 2, 3, 0x0F, 0x10, 0x11, 0x12, 0x13] ∨ b.toNat = 5 ∨ b.toNat = 6)) := by
  unfold kindOfCode
  split <;> simp_all

/-- The RAM code (rule R564). -/
theorem ramSizeOfCode_eq (b : Byte) :
    ramSizeOfCode b = if b.toNat ≤ 3 then some ([0, 2048, 8192, 32768].getD b.toNat 0) else none := by
  unfold ramSizeOfCode
  split <;> simp_all
  omega

theorem cramSize_eq {ty : Byte} {kind : MbcKind} (hkind : kindOfCode ty = some kind) (code : Byte) :
    cramSize kind code =
      if ty.toNat = 5 ∨ ty.toNat = 6 then some 512
      else if code.toNat ≤ 3 then some ([0, 2048, 8192, 32768].getD code.toNat 0) else none := by
  obtain ⟨-, -, hmbc2, -⟩ := kindOfCode_iff ty
  rw [← ramSizeOfCode_eq]
  by_cases h : ty.toNat = 5 ∨ ty.toNat = 6
  · cases hkind.symm.trans (hmbc2.2 h)
    exact (if_pos h).symm
  · rw [if_neg h]
    cases kind with
    | mbc2 => exact absurd (hmbc2.1 hkind) h
    | _ => rfl

/-- What the loader derives from the header, or its refusal (rules R561, R563, R564). -/
theorem loadHeader_cases (rom : Image) :
    let ty := (rom.bytes.read 0x147).toNat
    let code := (rom.bytes.read 0x149).toNat
    let size := if ty = 5 ∨ ty = 6 then 512 else [0, 2048, 8192, 32768].getD code 0
    let good := 0x14A ≤ rom.len ∧
      (ty ∈ [0, 1, 2, 3, 0x0F, 0x10, 0x11, 0x12, 0x13] ∧ code ≤ 3 ∨ ty = 5 ∨ ty = 6)
    (¬ good → loadHeader rom = .error .malformedCartridge) ∧
    (good → ∃ kind, kindOfCode (rom.bytes.read 0x147) = some kind ∧ loadHeader rom = .ok (kind, size)) := by
  intro ty code size good
  obtain ⟨-, -, -, hnone⟩ := kindOfCode_iff (rom.bytes.read 0x147)
  unfold loadHeader
  by_cases hlen : rom.len < 0x14A
  · rw [if_pos hlen]
    exact ⟨fun _ => rfl, fun hgood => absurd hgood.1 (Nat.not_le.2 hlen)⟩
  rw [if_neg hlen]
  cases hkind : kindOfCode (rom.bytes.read 0x147) with
  | none => exact ⟨fun _ => rfl, fun hgood => absurd (hgood.2.imp_left And.left) (hnone.1 hkind)⟩
  | some kind =>
    have hty : ty ∈ _ ∨ ty = 5 ∨ ty = 6 := not_not.1 fun h => by cases hkind.symm.trans (hnone.2 h)
    dsimp only
    rw [cramSize_eq hkind]
    by_cases h : ty = 5 ∨ ty = 6
    · have hsize : size = 512 := if_pos h
      rw [if_pos h, hsize]
      exact ⟨fun hbad => absurd ⟨Nat.le_of_not_lt hlen, .inr h⟩ hbad, fun _ => ⟨kind, rfl, rfl⟩⟩
    · have hsize : size = [0, 2048, 8192, 32768].getD code 0 := if_neg h
      rw [if_neg h, hsize]
      by_cases hcode : code ≤ 3
      · rw [if_pos hcode]
        exact ⟨fun hbad => absurd ⟨Nat.le_of_not_lt hlen, .inl ⟨hty.resolve_right h, hcode⟩⟩ hbad,
          fun _ => ⟨kind, rfl, rfl⟩⟩
      · rw [if_neg hcode]
        exact ⟨fun _ => rfl, fun hgood => hgood.2.elim (fun hc => absurd hc.2 hcode) fun h' => absurd h' h⟩

theorem construct_of_header {h : HostSupply} {kind : MbcKind} {n : Nat}
    (hload : loadHeader h.cartImage = .ok (kind, n)) :
    construct h =
      if h.busMap.all BusClaim.valid then
        .ok (State.create h.params h.busMap h.bootImage ⟨kind, h.cartImage, initialRam kind n h.cram, n⟩ h.host
          h.initial)
      else .error .outOfRange := by
  simp only [construct, hload]

/-- Settles O55: the loader's cases (`loadHeader_cases`), the map's check, and the fields of the machine created. -/
theorem constructionReadsHeader : Obligations.ConstructionReadsHeader := by
  unfold Obligations.ConstructionReadsHeader
  intro h ty code size good valid clear
  obtain ⟨hbad, hgood⟩ := loadHeader_cases h.cartImage
  have hvalid : h.busMap.all BusClaim.valid = true ↔ valid := by
    simp only [List.all_eq_true, BusClaim.valid, decide_eq_true_eq, valid]
  refine ⟨fun hg => ?_, fun hg hv => ?_, fun hg hv => ?_⟩
  · simp only [construct, hbad hg]
  · obtain ⟨kind, -, hload⟩ := hgood hg
    exact (construct_of_header hload).trans (if_neg (mt hvalid.1 hv))
  · obtain ⟨kind, hkind, hload⟩ := hgood hg
    obtain ⟨hnull, hmbc1, hmbc2, -⟩ := kindOfCode_iff (h.cartImage.bytes.read 0x147)
    rw [hkind] at hnull hmbc1 hmbc2
    simp only [Option.some.injEq] at hnull hmbc1 hmbc2
    refine ⟨_, (construct_of_header hload).trans (if_pos (hvalid.2 hv)),
      ⟨rfl, rfl, rfl, rfl, rfl, rfl, rfl, rfl, rfl, rfl, fun k hk => ?_, hnull, hmbc1, hmbc2⟩,
      fun r hr => ?_, fun hnone => ?_⟩
    · exact (initialRam_read kind h.cram hk).trans (if_congr hmbc2 rfl rfl)
    · have hr' : h.initial = r := by rw [HostSupply.initial, hr]; rfl
      subst hr'
      exact ⟨rfl, rfl, rfl, rfl, rfl, rfl, rfl, rfl, rfl, rfl, rfl, rfl, rfl, rfl⟩
    · have hr' : h.initial = ResetState.preset h.params h.bootImage := by rw [HostSupply.initial, hnone]; rfl
      rw [hr']
      cases h.bootImage with
      | some img =>
        refine ⟨rfl, rfl, rfl, rfl, rfl, rfl, rfl, rfl, rfl, rfl, rfl, rfl, rfl, rfl, rfl, rfl, rfl, rfl, rfl, rfl,
          rfl, rfl, rfl, rfl,
          (if_neg (show ¬ (0 : Byte).getLsbD 7 = true by decide)).symm, rfl, rfl, rfl, rfl, rfl, rfl, rfl, rfl,
          rfl, rfl, rfl, rfl, rfl, rfl, rfl, rfl, rfl, rfl, rfl,
          fun _ => ⟨rfl, rfl, rfl, rfl, rfl, rfl, rfl, rfl, rfl, rfl, rfl, rfl, rfl, rfl, rfl, rfl, rfl⟩,
          fun hb => nomatch hb⟩
      | none =>
        refine ⟨rfl, rfl, rfl, rfl, rfl, rfl, rfl, rfl, rfl, rfl, rfl, rfl, rfl, rfl, rfl, rfl, rfl, rfl, rfl, rfl,
          rfl, rfl, rfl, rfl,
          (if_pos (show (0x91 : Byte).getLsbD 7 = true by decide)).symm, rfl, rfl, rfl, rfl, rfl, rfl, rfl, rfl,
          rfl, rfl, rfl, rfl, rfl, rfl, rfl, rfl, rfl, rfl, rfl,
          fun hb => Bool.noConfusion hb, fun _ => ⟨rfl, rfl, rfl, rfl, rfl,
          (show (0 : Byte) &&& 0x78 = 0 by decide), rfl, rfl, rfl, rfl, rfl, rfl, rfl, rfl, rfl, rfl⟩⟩

end Sys2Proof.Machine
end

section
/-! SUPPORT. The clock of MBC3 (rules R592, R593): each field counts modulo its mask, the day as one number, and a
second as a step of the total of seconds. -/

namespace Sys2Proof.Machine

/-! ## One second -/

/-- A field one up, under the mask of its `n` bits. -/
theorem add_one_and_mask (b mask : Byte) {n : Nat} (hn : n ≤ 8) (hmask : mask.toNat = 2 ^ n - 1) :
    (b + 1) &&& mask = BitVec.ofNat 8 ((b.toNat + 1) % 2 ^ n) := by
  apply BitVec.eq_of_toNat_eq
  have hsum : (b + 1).toNat = (b.toNat + 1) % 2 ^ 8 := BitVec.toNat_add b 1
  rw [BitVec.toNat_and, hmask, Nat.and_two_pow_sub_one_eq_mod, hsum, Nat.mod_mod_of_dvd _ (Nat.pow_dvd_pow 2 hn),
    BitVec.toNat_ofNat]
  exact (Nat.mod_eq_of_lt
    (Nat.lt_of_lt_of_le (Nat.mod_lt _ (Nat.two_pow_pos n)) (Nat.pow_le_pow_right (by decide) hn))).symm

/-- The field reaches `k` where it stood at `k - 1` below its mask. -/
theorem ofNat_mod_eq_iff (b k : Byte) {n : Nat} (hn : n ≤ 8) (hk : 0 < k.toNat) (hkn : k.toNat < 2 ^ n) :
    BitVec.ofNat 8 ((b.toNat + 1) % 2 ^ n) = k ↔ b.toNat % 2 ^ n = k.toNat - 1 := by
  have hpow : 2 ^ n ≤ 2 ^ 8 := Nat.pow_le_pow_right (by decide) hn
  have hlt := Nat.mod_lt b.toNat (Nat.two_pow_pos n)
  rw [← BitVec.toNat_inj, BitVec.toNat_ofNat,
    Nat.mod_eq_of_lt (Nat.lt_of_lt_of_le (Nat.mod_lt _ (Nat.two_pow_pos n)) hpow), Nat.add_mod,
    Nat.mod_eq_of_lt (show 1 < 2 ^ n by omega)]
  rcases Nat.lt_or_ge (b.toNat % 2 ^ n + 1) (2 ^ n) with h | h
  · rw [Nat.mod_eq_of_lt h]
    omega
  · rw [show b.toNat % 2 ^ n + 1 = 2 ^ n by omega, Nat.mod_self]
    omega

/-- A day below 512 from its bit above DL and its low byte. -/
theorem div_mod_day {d : Nat} (h : d < 512) : d / 256 * 256 + d % 256 = d % 512 := by omega

section
variable (r : RtcRegs)

/-- The day counter of DH bit 0 and DL. -/
def RtcRegs.day : Nat := r.dh.toNat % 2 * 256 + r.dl.toNat

theorem RtcRegs.day_eq : r.day = r.dh.toNat % 2 * 256 + r.dl.toNat := rfl

theorem RtcRegs.tickSecond_eq : r.tickSecond =
    if r.s.toNat % 64 = 59 then RtcRegs.tickMinute { r with s := 0 }
    else { r with s := BitVec.ofNat 8 ((r.s.toNat + 1) % 64) } := by
  unfold RtcRegs.tickSecond
  dsimp only
  rw [add_one_and_mask r.s 0x3F (n := 6) (by decide) rfl]
  exact if_congr (ofNat_mod_eq_iff r.s 60 (n := 6) (by decide) (by decide) (by decide)) rfl rfl

theorem RtcRegs.tickMinute_eq : r.tickMinute =
    if r.m.toNat % 64 = 59 then RtcRegs.tickHour { r with m := 0 }
    else { r with m := BitVec.ofNat 8 ((r.m.toNat + 1) % 64) } := by
  unfold RtcRegs.tickMinute
  dsimp only
  rw [add_one_and_mask r.m 0x3F (n := 6) (by decide) rfl]
  exact if_congr (ofNat_mod_eq_iff r.m 60 (n := 6) (by decide) (by decide) (by decide)) rfl rfl

theorem RtcRegs.tickHour_eq : r.tickHour =
    if r.h.toNat % 32 = 23 then RtcRegs.tickDay { r with h := 0 }
    else { r with h := BitVec.ofNat 8 ((r.h.toNat + 1) % 32) } := by
  unfold RtcRegs.tickHour
  dsimp only
  rw [add_one_and_mask r.h 0x1F (n := 5) (by decide) rfl]
  exact if_congr (ofNat_mod_eq_iff r.h 24 (n := 5) (by decide) (by decide) (by decide)) rfl rfl

/-- The day plus one, with its carry (rule R593). -/
theorem RtcRegs.tickDay_eq :
    r.tickDay = { r with dl := r.tickDay.dl, dh := r.tickDay.dh } ∧ r.tickDay.day = (r.day + 1) % 512 ∧
    r.tickDay.dh.getLsbD 7 = (r.dh.getLsbD 7 || decide (r.day = 511)) ∧
    ∀ i, 1 ≤ i → i ≤ 6 → r.tickDay.dh.getLsbD i = r.dh.getLsbD i := by
  have hlow : ∀ v : Byte, v.toNat % 2 = (v.getLsbD 0).toNat := fun v => (toNat_bitOf_zero v).symm
  have hday : fieldOf r.dh 0 1 * 256 + r.dl.toNat + 1 = r.day + 1 := by rw [fieldOf_low]; rfl
  have hle : r.day < 512 := by
    have := r.dl.isLt
    unfold RtcRegs.day
    omega
  unfold RtcRegs.tickDay
  dsimp only
  rw [hday]
  by_cases h : r.day + 1 = 512
  · have hor : ∀ i < 8, (0x80 : Byte).getLsbD i = decide (i = 7) := by decide
    have hand : ∀ i < 8, (0xFE : Byte).getLsbD i = decide (1 ≤ i) := by decide
    have hbit : ∀ i < 8, ((r.dh ||| 0x80) &&& 0xFE).getLsbD i =
        ((r.dh.getLsbD i || decide (i = 7)) && decide (1 ≤ i)) :=
      fun i hi => by rw [BitVec.getLsbD_and, BitVec.getLsbD_or, hor i hi, hand i hi]
    rw [if_pos h]
    refine ⟨rfl, ?_, ?_, fun i hi hi' => ?_⟩
    · rw [h, RtcRegs.day, hlow, hbit 0 (by decide)]
      simp
    · rw [hbit 7 (by decide)]
      simp [show r.day = 511 by omega]
    · rw [hbit i (by omega)]
      simp [hi, show i ≠ 7 by omega]
  · have hmask : ∀ i < 8, (0x01 : Byte).getLsbD i = decide (i = 0) := by decide
    rw [if_neg h]
    refine ⟨rfl, ?_, ?_, fun i hi hi' => ?_⟩
    · have hcarry : (mergeBits 0x01 r.dh (BitVec.ofNat 8 ((r.day + 1) / 256))).toNat % 2 = (r.day + 1) / 256 := by
        rw [hlow, getLsbD_mergeBits, hmask 0 (by decide), if_pos (by decide), ← hlow, BitVec.toNat_ofNat]
        omega
      have hlowByte : (BitVec.ofNat 8 (r.day + 1)).toNat = (r.day + 1) % 256 := BitVec.toNat_ofNat _ 8
      refine (RtcRegs.day_eq _).trans ?_
      simp only [hcarry, hlowByte]
      exact div_mod_day (by omega)
    · rw [getLsbD_mergeBits, hmask 7 (by decide), if_neg (by decide)]
      simp [show r.day ≠ 511 by omega]
    · rw [getLsbD_mergeBits, hmask i (by omega), if_neg (by simpa using by omega)]

end

/-- The total of seconds since day 0. -/
def RtcRegs.secs (r : RtcRegs) : Nat := ((r.day * 24 + r.h.toNat) * 60 + r.m.toNat) * 60 + r.s.toNat

section
variable {r : RtcRegs}

theorem RtcRegs.tickSecond_of_second (h : r.s.toNat % 64 ≠ 59) :
    r.tickSecond = { r with s := BitVec.ofNat 8 ((r.s.toNat + 1) % 64) } :=
  r.tickSecond_eq.trans (if_neg h)

section
variable (hs : r.s.toNat % 64 = 59)
include hs

theorem RtcRegs.tickSecond_of_minute (hm : r.m.toNat % 64 ≠ 59) :
    r.tickSecond = { r with s := 0, m := BitVec.ofNat 8 ((r.m.toNat + 1) % 64) } :=
  r.tickSecond_eq.trans ((if_pos hs).trans ((RtcRegs.tickMinute_eq _).trans (if_neg hm)))

section
variable (hm : r.m.toNat % 64 = 59)
include hm

theorem RtcRegs.tickSecond_eq_tickHour : r.tickSecond = RtcRegs.tickHour { r with s := 0, m := 0 } :=
  r.tickSecond_eq.trans ((if_pos hs).trans ((RtcRegs.tickMinute_eq _).trans (if_pos hm)))

theorem RtcRegs.tickSecond_of_hour (hh : r.h.toNat % 32 ≠ 23) :
    r.tickSecond = { r with s := 0, m := 0, h := BitVec.ofNat 8 ((r.h.toNat + 1) % 32) } :=
  (RtcRegs.tickSecond_eq_tickHour hs hm).trans ((RtcRegs.tickHour_eq _).trans (if_neg hh))

theorem RtcRegs.tickSecond_of_day (hh : r.h.toNat % 32 = 23) :
    r.tickSecond = { r with s := 0, m := 0, h := 0, dl := r.tickSecond.dl, dh := r.tickSecond.dh } ∧
    r.tickSecond.day = (r.day + 1) % 512 ∧
    r.tickSecond.dh.getLsbD 7 = (r.dh.getLsbD 7 || decide (r.day = 511)) ∧
    ∀ i, 1 ≤ i → i ≤ 6 → r.tickSecond.dh.getLsbD i = r.dh.getLsbD i := by
  rw [(RtcRegs.tickSecond_eq_tickHour hs hm).trans ((RtcRegs.tickHour_eq _).trans (if_pos hh))]
  exact RtcRegs.tickDay_eq _

end

end

/-- The halt bit is no part of the count. -/
theorem RtcRegs.tickSecond_halt (r : RtcRegs) : r.tickSecond.dh.getLsbD 6 = r.dh.getLsbD 6 := by
  by_cases hs : r.s.toNat % 64 = 59
  · by_cases hm : r.m.toNat % 64 = 59
    · by_cases hh : r.h.toNat % 32 = 23
      · exact (RtcRegs.tickSecond_of_day hs hm hh).2.2.2 6 (by decide) (by decide)
      · rw [RtcRegs.tickSecond_of_hour hs hm hh]
    · rw [RtcRegs.tickSecond_of_minute hs hm]
  · rw [RtcRegs.tickSecond_of_second hs]

/-- A field that does not reach its mask counts up by one. -/
theorem toNat_count {b : Byte} {n : Nat} (h : b.toNat + 1 < n) (hn : n ≤ 256) :
    (BitVec.ofNat 8 ((b.toNat + 1) % n)).toNat = b.toNat + 1 := by
  rw [BitVec.toNat_ofNat, Nat.mod_eq_of_lt h, Nat.mod_eq_of_lt (Nat.lt_of_lt_of_le h hn)]

theorem RtcRegs.day_lt (r : RtcRegs) : r.day < 512 := by
  have := r.dl.isLt
  unfold RtcRegs.day
  omega

/-- A second that ends no day. -/
theorem RtcRegs.secs_of_same_day {q : RtcRegs} (hdh : q.dh = r.dh) (hsecs : q.secs = r.secs + 1)
    (hlt : r.secs + 1 < 512 * 86400) :
    q.secs = (r.secs + 1) % (512 * 86400) ∧
    q.dh.getLsbD 7 = (r.dh.getLsbD 7 || decide (r.secs + 1 = 512 * 86400)) :=
  ⟨hsecs.trans (Nat.mod_eq_of_lt hlt).symm, by rw [hdh, decide_eq_false (Nat.ne_of_lt hlt), Bool.or_false]⟩

/-- On a clock within its ranges a second is one of the total. -/
theorem RtcRegs.secs_tickSecond (hs : r.s.toNat < 60) (hm : r.m.toNat < 60) (hh : r.h.toNat < 24) :
    (r.tickSecond.secs = (r.secs + 1) % (512 * 86400) ∧
      r.tickSecond.dh.getLsbD 7 = (r.dh.getLsbD 7 || decide (r.secs + 1 = 512 * 86400))) ∧
    r.tickSecond.s.toNat < 60 ∧ r.tickSecond.m.toNat < 60 ∧ r.tickSecond.h.toNat < 24 := by
  have hday := r.day_lt
  have hsecs : r.secs = ((r.day * 24 + r.h.toNat) * 60 + r.m.toNat) * 60 + r.s.toNat := rfl
  have hzero : (0 : Byte).toNat = 0 := rfl
  have hpos : (0 : Byte).toNat < 60 := by decide
  by_cases hs' : r.s.toNat % 64 = 59
  · by_cases hm' : r.m.toNat % 64 = 59
    · by_cases hh' : r.h.toNat % 32 = 23
      · obtain ⟨hq, hqday, hcarry, -⟩ := RtcRegs.tickSecond_of_day hs' hm' hh'
        have h0 : r.tickSecond.s.toNat = 0 := by rw [hq]; rfl
        have h1 : r.tickSecond.m.toNat = 0 := by rw [hq]; rfl
        have h2 : r.tickSecond.h.toNat = 0 := by rw [hq]; rfl
        have hlast : r.day = 511 ↔ r.secs + 1 = 512 * 86400 := by omega
        refine ⟨⟨?_, by rw [hcarry, decide_eq_decide.2 hlast]⟩, by omega, by omega, by omega⟩
        rw [RtcRegs.secs, h0, h1, h2, hqday]
        omega
      · rw [RtcRegs.tickSecond_of_hour hs' hm' hh']
        have hcount := toNat_count (b := r.h) (n := 32) (by omega) (by decide)
        refine ⟨RtcRegs.secs_of_same_day rfl ?_ (by omega), hpos, hpos, by dsimp only; omega⟩
        rw [RtcRegs.secs, hcount, hsecs, hzero]
        change ((r.day * 24 + _) * 60 + _) * 60 + _ = _
        omega
    · rw [RtcRegs.tickSecond_of_minute hs' hm']
      have hcount := toNat_count (b := r.m) (n := 64) (by omega) (by decide)
      refine ⟨RtcRegs.secs_of_same_day rfl ?_ (by omega), hpos, by dsimp only; omega, hh⟩
      rw [RtcRegs.secs, hcount, hsecs, hzero]
      change ((r.day * 24 + _) * 60 + _) * 60 + _ = _
      dsimp only
      omega
  · rw [RtcRegs.tickSecond_of_second hs']
    have hcount := toNat_count (b := r.s) (n := 64) (by omega) (by decide)
    refine ⟨RtcRegs.secs_of_same_day rfl ?_ (by omega), by dsimp only; omega, hm, hh⟩
    rw [RtcRegs.secs, hcount, hsecs]
    change ((r.day * 24 + _) * 60 + _) * 60 + _ = _
    dsimp only
    omega

end

/-! ## The cycles of a second (rule R592) -/

section
variable {c : Cart} (hk : c.kind = .mbc3) (hrun : c.rtc.dh.getLsbD 6 = false) {clockHz n : Nat}

theorem Cart.rtcAdvance_of_stopped (h : c.kind ≠ .mbc3 ∨ c.rtc.dh.getLsbD 6 = true) : c.rtcAdvance clockHz n = c := by
  unfold Cart.rtcAdvance
  split
  · exact if_pos (h.resolve_left fun hne => hne ‹_›)
  · rfl

include hk hrun

theorem Cart.rtcAdvance_of_running : c.rtcAdvance clockHz n =
    { c with
      rtc := RtcRegs.tickSecond^[(c.rtcAcc + n) / clockHz] c.rtc
      rtcAcc := (c.rtcAcc + n) % clockHz } := by
  have hbit : ¬ bitOf c.rtc.dh 6 = true := fun h => Bool.noConfusion (h.symm.trans hrun)
  simp only [Cart.rtcAdvance, hk, if_neg hbit]
  rfl

theorem Cart.rtcAdvance_of_lt (h : c.rtcAcc + n < clockHz) :
    c.rtcAdvance clockHz n = { c with rtcAcc := c.rtcAcc + n } := by
  rw [Cart.rtcAdvance_of_running hk hrun, Nat.div_eq_of_lt h, Nat.mod_eq_of_lt h]
  rfl

/-- The loop's first second, and the rest. -/
theorem Cart.rtcAdvance_of_ge (hpos : 0 < clockHz) (h : clockHz ≤ c.rtcAcc + n) :
    c.rtcAdvance clockHz n =
      Cart.rtcAdvance { c with rtc := c.rtc.tickSecond, rtcAcc := c.rtcAcc + n - clockHz } clockHz 0 := by
  have hrest := Cart.rtcAdvance_of_running (c := { c with rtc := c.rtc.tickSecond, rtcAcc := c.rtcAcc + n - clockHz })
    hk (c.rtc.tickSecond_halt.trans hrun) (clockHz := clockHz) (n := 0)
  rw [hrest, Cart.rtcAdvance_of_running hk hrun, Nat.div_eq_sub_div hpos h, Nat.mod_eq_sub_mod h,
    Function.iterate_succ_apply]
  rfl

end

/-- Settles O52: a second by the fields that stand at their last value (`RtcRegs.tickSecond_eq` and its like), and the
advance as quotient and remainder (`Cart.rtcAdvance_of_running`). -/
theorem clockCountsSeconds : Obligations.ClockCountsSeconds := by
  unfold Obligations.ClockCountsSeconds
  refine ⟨fun r => ⟨RtcRegs.tickSecond_of_second, fun hs hm => RtcRegs.tickSecond_of_minute hs hm,
    fun hs hm hh => RtcRegs.tickSecond_of_hour hs hm hh, fun hs hm hh => ?_, fun hs hm hh => ?_⟩,
    fun c clockHz n => ⟨Cart.rtcAdvance_of_stopped, fun hk hrun => ⟨Cart.rtcAdvance_of_lt hk hrun,
      Cart.rtcAdvance_of_ge hk hrun⟩⟩, State.advanceClocks_cart⟩
  · obtain ⟨hq, hday, hcarry, hbits⟩ := RtcRegs.tickSecond_of_day hs hm hh
    exact ⟨congrArg RtcRegs.s hq, congrArg RtcRegs.m hq, congrArg RtcRegs.h hq, hday, hcarry, hbits⟩
  · obtain ⟨⟨hsecs, hcarry⟩, hs', hm', hh'⟩ := RtcRegs.secs_tickSecond hs hm hh
    exact ⟨hsecs, hs', hm', hh', r.tickSecond_halt, hcarry⟩

end Sys2Proof.Machine
end

section
/-! SUPPORT. The sound unit's ticks, channels and mix: the counters of the frame sequencer, the advance of a channel as
its first period and the rest, and the samples as numbers. -/

namespace Sys2Proof.Machine

/-! ## The frame sequencer (rules R501 to R504) -/

theorem Apu.fsTick_eq (u : Apu) (h : u.fsStep < 8) :
    u.fsTick =
      { (if u.fsStep = 0 ∨ u.fsStep = 4 then u.lengthTicks
         else if u.fsStep = 2 ∨ u.fsStep = 6 then u.lengthTicks.sweepTick
         else if u.fsStep = 7 then u.envelopeTicks
         else u) with fsStep := if u.fsStep = 7 then 0 else u.fsStep + 1 } := by
  unfold Apu.fsTick
  obtain hk | hk | hk | hk | hk | hk | hk | hk : u.fsStep = 0 ∨ u.fsStep = 1 ∨ u.fsStep = 2 ∨ u.fsStep = 3 ∨
    u.fsStep = 4 ∨ u.fsStep = 5 ∨ u.fsStep = 6 ∨ u.fsStep = 7 := by omega
  all_goals rw [hk]; rfl

section
variable (nrx : Byte) (length volume counter : Nat) (enabled : Bool)

/-- A length tick (rule R502). -/
theorem lengthStep_cases :
    let r := lengthStep (bitOf nrx 6) length
    (nrx.getLsbD 6 = false ∨ length = 0 → r.1 = length ∧ (enabled && !r.2) = enabled) ∧
    (nrx.getLsbD 6 = true → 1 < length → r.1 = length - 1 ∧ (enabled && !r.2) = enabled) ∧
    (nrx.getLsbD 6 = true → length = 1 → r.1 = 0 ∧ (enabled && !r.2) = false) := by
  have hbit : bitOf nrx 6 = nrx.getLsbD 6 := rfl
  simp only [lengthStep, hbit]
  refine ⟨fun h => ?_, fun hon hlength => ?_, fun hon hlength => ?_⟩
  · rw [if_neg (by rintro ⟨hon, hpos⟩; rcases h with h | h <;> simp_all)]
    simp
  · rw [if_pos ⟨hon, by omega⟩]
    simp [show length - 1 ≠ 0 by omega]
  · rw [if_pos ⟨hon, by omega⟩]
    simp [hlength]

/-- An envelope tick (rule R503). -/
theorem envelopeStep_cases :
    let p := nrx.toNat % 8
    let r := envelopeStep nrx volume counter
    (p = 0 ∨ counter = 0 → r.1 = volume ∧ r.2 = counter) ∧
    (p ≠ 0 → 1 < counter → r.1 = volume ∧ r.2 = counter - 1) ∧
    (p ≠ 0 → counter = 1 → volume ≤ 15 →
      r.2 = p ∧ r.1 = if nrx.getLsbD 3 then min 15 (volume + 1) else volume - 1) := by
  have hbit : bitOf nrx 3 = nrx.getLsbD 3 := rfl
  simp only [envelopeStep, fieldOf_zero_three, hbit]
  refine ⟨fun h => ?_, fun hp hcounter => ?_, fun hp hcounter hvolume => ?_⟩
  · rw [if_neg (by omega)]
    exact ⟨rfl, rfl⟩
  · rw [if_pos ⟨hp, by omega⟩, if_neg (by omega)]
    exact ⟨rfl, rfl⟩
  · rw [if_pos ⟨hp, by omega⟩, if_pos (by omega)]
    refine ⟨rfl, ?_⟩
    cases nrx.getLsbD 3 with
    | false => rfl
    | true =>
      simp only [if_true]
      split_ifs <;> omega

end

/-- The byte of NR14 that a due sweep tick writes: bits 2 to 0 replaced. -/
theorem mergeBits_lowThree (old new : Byte) :
    (mergeBits 0x07 old new).toNat % 8 = new.toNat % 8 ∧ (mergeBits 0x07 old new).toNat / 8 = old.toNat / 8 := by
  have hmask : ∀ i < 8, (0x07 : Byte).getLsbD i = decide (i < 3) := by decide
  have hlow : (mergeBits 0x07 old new).setWidth 3 = new.setWidth 3 := by
    refine BitVec.eq_of_getLsbD_eq fun i hi => ?_
    rw [BitVec.getLsbD_setWidth, BitVec.getLsbD_setWidth, getLsbD_mergeBits, hmask i (by omega),
      if_pos (by simpa using hi)]
  have hhigh : mergeBits 0x07 old new >>> 3 = old >>> 3 := by
    refine BitVec.eq_of_getLsbD_eq fun i hi => ?_
    rw [BitVec.getLsbD_ushiftRight, BitVec.getLsbD_ushiftRight, getLsbD_mergeBits]
    by_cases h8 : 3 + i < 8
    · rw [hmask _ h8, if_neg (by simp)]
    · rw [BitVec.getLsbD_of_ge 0x07 _ (by omega), if_neg (by simp)]
  have hlow' := congrArg BitVec.toNat hlow
  have hhigh' := congrArg BitVec.toNat hhigh
  simp only [BitVec.toNat_setWidth, BitVec.toNat_ushiftRight, Nat.shiftRight_eq_div_pow] at hlow' hhigh'
  exact ⟨hlow', hhigh'⟩

theorem sweepNext_eq (nr10 : Byte) (shadow : Nat) : sweepNext nr10 shadow =
    if nr10.getLsbD 3 then shadow - shadow / 2 ^ (nr10.toNat % 8) else shadow + shadow / 2 ^ (nr10.toNat % 8) := by
  unfold sweepNext
  rw [fieldOf_zero_three]
  rfl

section
variable {u : Apu}

/-- The recalculation of rule R504. -/
theorem Apu.sweepRecalc_of_overflow (h : 2047 < sweepNext u.regs.nr10 u.sweep.shadow) :
    u.sweepRecalc = { u with ch1 := { u.ch1 with enabled := false } } := if_pos h

section
variable (hfits : sweepNext u.regs.nr10 u.sweep.shadow ≤ 2047)
include hfits

theorem Apu.sweepRecalc_of_no_shift (h : u.regs.nr10.toNat % 8 = 0) : u.sweepRecalc = u := by
  rw [← fieldOf_zero_three] at h
  exact (if_neg (Nat.not_lt.2 hfits)).trans (if_neg (not_not.2 h))

theorem Apu.sweepRecalc_of_shift (h : u.regs.nr10.toNat % 8 ≠ 0) :
    u.sweepRecalc = { u with
      sweep := { u.sweep with shadow := sweepNext u.regs.nr10 u.sweep.shadow }
      regs := { u.regs with nr13 := u.sweepRecalc.regs.nr13, nr14 := u.sweepRecalc.regs.nr14 } } ∧
    u.sweepRecalc.regs.nr14.toNat % 8 * 256 + u.sweepRecalc.regs.nr13.toNat = sweepNext u.regs.nr10 u.sweep.shadow ∧
    u.sweepRecalc.regs.nr14.toNat / 8 = u.regs.nr14.toNat / 8 := by
  rw [← fieldOf_zero_three] at h
  rw [show u.sweepRecalc = _ from (if_neg (Nat.not_lt.2 hfits)).trans (if_pos h)]
  obtain ⟨hlow, hhigh⟩ :=
    mergeBits_lowThree u.regs.nr14 (BitVec.ofNat 8 (sweepNext u.regs.nr10 u.sweep.shadow / 256))
  refine ⟨rfl, ?_, hhigh⟩
  dsimp only
  rw [hlow, BitVec.toNat_ofNat, BitVec.toNat_ofNat]
  omega

end

theorem Apu.sweepTick_of_off (h : u.sweep.on = false ∨ u.regs.nr10.toNat / 16 % 8 = 0) : u.sweepTick = u :=
  if_neg fun hon => h.elim (fun hoff => Bool.noConfusion (hon.1.symm.trans hoff)) hon.2

section
variable (hon : u.sweep.on = true) (hperiod : u.regs.nr10.toNat / 16 % 8 ≠ 0)
include hon hperiod

theorem Apu.sweepTick_of_counting (h : 1 < u.sweep.counter) :
    u.sweepTick = { u with sweep := { u.sweep with counter := u.sweep.counter - 1 } } :=
  (if_pos ⟨hon, hperiod⟩).trans (if_neg (by omega))

theorem Apu.sweepTick_of_due (h : u.sweep.counter ≤ 1) :
    u.sweepTick =
      Apu.sweepRecalc { u with sweep := { u.sweep with counter := u.regs.nr10.toNat / 16 % 8 } } :=
  (if_pos ⟨hon, hperiod⟩).trans (if_pos (by omega))

end

end

/-- Settles O47: each tick by its own cases. -/
theorem frameSequencerTicks : Obligations.FrameSequencerTicks := by
  unfold Obligations.FrameSequencerTicks
  intro counts ramps u
  refine ⟨u.fsTick_eq, ⟨lengthStep_cases _ _ _, lengthStep_cases _ _ _, lengthStep_cases _ _ _, lengthStep_cases _ _ _,
    rfl⟩, ⟨envelopeStep_cases _ _ _, envelopeStep_cases _ _ _, envelopeStep_cases _ _ _, rfl⟩, ?_⟩
  intro v sp sh d new
  have hnew : new = sweepNext u.regs.nr10 u.sweep.shadow := (sweepNext_eq _ _).symm
  refine ⟨Apu.sweepTick_of_off, fun hon hsp hcounter => Apu.sweepTick_of_counting hon hsp hcounter,
    fun hon hsp hcounter => ?_⟩
  let w : Apu := { u with sweep := { u.sweep with counter := sp } }
  have hv : v = w.sweepRecalc := Apu.sweepTick_of_due hon hsp hcounter
  rw [hv, hnew]
  exact ⟨Apu.sweepRecalc_of_overflow (u := w), Apu.sweepRecalc_of_no_shift (u := w),
    Apu.sweepRecalc_of_shift (u := w)⟩

/-! ## The channels (rules R520 to R531) -/

/-- A counter at its period or above: one crossing, and those of the rest. -/
theorem crossings_of_ge {total period : Nat} (hpos : 0 < period) (h : period ≤ total) :
    crossings total period = crossings (total - period) period + 1 := Nat.div_eq_sub_div hpos h

theorem leftover_of_ge {total period : Nat} (h : period ≤ total) :
    leftover total period = leftover (total - period) period := Nat.mod_eq_sub_mod h

theorem crossings_of_lt {total period : Nat} (h : total < period) :
    crossings total period = 0 ∧ leftover total period = total := ⟨Nat.div_eq_of_lt h, Nat.mod_eq_of_lt h⟩

theorem Pulse.advance_cases (c : Pulse) (n : Nat) {freq : Nat} (hf : freq < 2048) (hpos : c.dutyPos < 8) :
    (c.periodAcc + n < (2048 - freq) * 4 → c.advance freq n = { c with periodAcc := c.periodAcc + n }) ∧
    ((2048 - freq) * 4 ≤ c.periodAcc + n → c.advance freq n =
      Pulse.advance { c with
        periodAcc := c.periodAcc + n - (2048 - freq) * 4, dutyPos := (c.dutyPos + 1) % 8 } freq 0) := by
  unfold Pulse.advance
  refine ⟨fun h => ?_, fun h => ?_⟩
  · simp only [crossings_of_lt h, Nat.add_zero, Nat.mod_eq_of_lt hpos]
  · simp only [crossings_of_ge (by omega) h, leftover_of_ge h, Nat.add_zero, Nat.mod_add_mod]
    rw [Nat.add_right_comm, Nat.add_assoc]

theorem Wave.advance_cases (c : Wave) (n : Nat) {freq : Nat} (hf : freq < 2048) (hpos : c.wavePos < 32) :
    (c.periodAcc + n < (2048 - freq) * 2 → c.advance freq n = { c with periodAcc := c.periodAcc + n }) ∧
    ((2048 - freq) * 2 ≤ c.periodAcc + n → c.advance freq n =
      Wave.advance { c with
        periodAcc := c.periodAcc + n - (2048 - freq) * 2, wavePos := (c.wavePos + 1) % 32 } freq 0) := by
  unfold Wave.advance
  refine ⟨fun h => ?_, fun h => ?_⟩
  · simp only [crossings_of_lt h, Nat.add_zero, Nat.mod_eq_of_lt hpos]
  · simp only [crossings_of_ge (by omega) h, leftover_of_ge h, Nat.add_zero, Nat.mod_add_mod]
    rw [Nat.add_right_comm, Nat.add_assoc]

theorem noisePeriod_eq (nr43 : Byte) :
    noisePeriod nr43 = [8, 16, 32, 48, 64, 80, 96, 112].getD (nr43.toNat % 8) 0 * 2 ^ (nr43.toNat / 16) := by
  have hdivisor : ∀ r < 8, noiseDivisor r = [8, 16, 32, 48, 64, 80, 96, 112].getD r 0 := by decide
  rw [noisePeriod, fieldOf_zero_three, fieldOf_highNibble, hdivisor _ (Nat.mod_lt _ (by decide))]

theorem noisePeriod_pos (nr43 : Byte) : 0 < noisePeriod nr43 := by
  unfold noisePeriod noiseDivisor
  refine Nat.mul_pos ?_ (Nat.two_pow_pos _)
  split_ifs <;> omega

theorem Noise.advance_cases (c : Noise) (nr43 : Byte) (n : Nat) :
    (c.periodAcc + n < noisePeriod nr43 → c.advance nr43 n = { c with periodAcc := c.periodAcc + n }) ∧
    (noisePeriod nr43 ≤ c.periodAcc + n → c.advance nr43 n =
      Noise.advance { c with
        periodAcc := c.periodAcc + n - noisePeriod nr43, lfsr := lfsrStep (nr43.getLsbD 3) c.lfsr } nr43 0) := by
  unfold Noise.advance
  refine ⟨fun h => ?_, fun h => ?_⟩
  · simp only [crossings_of_lt h, Function.iterate_zero, id_eq]
  · simp only [crossings_of_ge (noisePeriod_pos nr43) h, leftover_of_ge h, Nat.add_zero, Function.iterate_succ_apply]
    rfl

/-- The noise step, bit by bit (rule R531). -/
theorem lfsrStep_bits (narrow : Bool) (l : BitVec 15) :
    (lfsrStep narrow l).getLsbD 14 = (l.getLsbD 0 ^^ l.getLsbD 1) ∧
    ∀ k, k < 14 → (lfsrStep narrow l).getLsbD k =
      if narrow = true ∧ k = 6 then (l.getLsbD 0 ^^ l.getLsbD 1) else l.getLsbD (k + 1) := by
  have hone : ∀ b : Bool, ∀ j, (if b then 1 else 0 : BitVec 15).getLsbD j = (b && decide (j = 0)) := fun b j => by
    cases b
    · simp
    · rw [if_pos rfl, show (1 : BitVec 15) = 1#15 from rfl, BitVec.getLsbD_one]
      simp
  have hfeedback : ∀ j, j < 15 → ((l >>> 1) |||
      ((if l.getLsbD 0 != l.getLsbD 1 then 1 else 0 : BitVec 15) <<< 14)).getLsbD j =
        if j = 14 then (l.getLsbD 0 ^^ l.getLsbD 1) else l.getLsbD (j + 1) := fun j hj => by
    rw [BitVec.getLsbD_or, BitVec.getLsbD_ushiftRight, BitVec.getLsbD_shiftLeft, hone, Nat.add_comm 1 j]
    by_cases h : j = 14
    · subst h
      rw [BitVec.getLsbD_of_ge l _ (by decide)]
      simp
    · simp [h, show j < 14 by omega]
  have hmask : ∀ j < 15, (0x40 : BitVec 15).getLsbD j = decide (j = 6) := by decide
  unfold lfsrStep
  dsimp only
  cases narrow with
  | false =>
    refine ⟨(hfeedback 14 (by decide)).trans (if_pos rfl), fun k hk => (hfeedback k (by omega)).trans ?_⟩
    rw [if_neg (by omega), if_neg (by simp)]
  | true =>
    have hnarrow : ∀ j, j < 15 → (((l >>> 1) ||| ((if l.getLsbD 0 != l.getLsbD 1 then 1 else 0 : BitVec 15) <<< 14)) &&&
        ~~~(0x40 : BitVec 15) ||| ((if l.getLsbD 0 != l.getLsbD 1 then 1 else 0 : BitVec 15) <<< 6)).getLsbD j =
        if j = 6 ∨ j = 14 then (l.getLsbD 0 ^^ l.getLsbD 1) else l.getLsbD (j + 1) := fun j hj => by
      rw [BitVec.getLsbD_or, BitVec.getLsbD_and, hfeedback j hj, BitVec.getLsbD_not, hmask j hj,
        BitVec.getLsbD_shiftLeft, hone]
      by_cases h6 : j = 6
      · subst h6
        simp
      · by_cases h14 : j = 14
        · subst h14
          simp
        · have hoff : ¬ j - 6 = 0 ∨ j < 6 := by omega
          simp only [hj, h6, h14, or_self, if_false, decide_true, decide_false, Bool.not_false, Bool.and_true,
            Bool.true_and]
          rcases hoff with h | h
          · simp [h]
          · simp [h]
    refine ⟨(hnarrow 14 (by decide)).trans (if_pos (.inr rfl)), fun k hk => (hnarrow k (by omega)).trans ?_⟩
    exact if_congr ⟨fun h => ⟨rfl, by omega⟩, fun h => .inl h.2⟩ rfl rfl

/-! ## Samples and mix (rules R521, R525, R531, R545) -/

theorem fieldOf_six_two (v : Byte) : fieldOf v 6 2 = v.toNat / 64 := by
  have := v.isLt
  simp only [fieldOf]
  omega

theorem dutyTable_eq {code : Nat} (h : code < 4) (pos : Nat) : dutyTable code pos =
    ([[0, 0, 0, 0, 0, 0, 0, 1], [1, 0, 0, 0, 0, 0, 0, 1], [1, 0, 0, 0, 0, 1, 1, 1],
      [0, 1, 1, 1, 1, 1, 1, 0]].getD code []).getD pos 0 := by
  obtain rfl | rfl | rfl | rfl : code = 0 ∨ code = 1 ∨ code = 2 ∨ code = 3 := by omega
  all_goals rfl

theorem Pulse.sample_eq (c : Pulse) (nrx1 : Byte) : c.sample nrx1 =
    if c.enabled then
      c.volume *
        ([[0, 0, 0, 0, 0, 0, 0, 1], [1, 0, 0, 0, 0, 0, 0, 1], [1, 0, 0, 0, 0, 1, 1, 1],
          [0, 1, 1, 1, 1, 1, 1, 0]].getD (nrx1.toNat / 64) []).getD c.dutyPos 0
    else 0 := by
  rw [Pulse.sample, fieldOf_six_two, dutyTable_eq (by have := nrx1.isLt; omega)]

theorem Wave.sample_eq (c : Wave) (wave : Memory) (nr32 : Byte) : c.sample wave nr32 =
    if c.enabled then
      (if c.wavePos % 2 = 0 then (wave.read (c.wavePos / 2)).toNat / 16 else (wave.read (c.wavePos / 2)).toNat % 16) /
        2 ^ [4, 0, 1, 2].getD (nr32.toNat / 32 % 4) 0
    else 0 := by
  have hshift : ∀ code < 4, waveShift code = [4, 0, 1, 2].getD code 0 := by decide
  have hcode : fieldOf nr32 5 2 = nr32.toNat / 32 % 4 := rfl
  rw [Wave.sample, waveNibble, fieldOf_highNibble, fieldOf_low, hcode, hshift _ (Nat.mod_lt _ (by decide))]
  rfl

theorem Noise.sample_eq (c : Noise) :
    c.sample = if c.enabled = true ∧ c.lfsr.getLsbD 0 = false then c.volume else 0 := by
  unfold Noise.sample
  cases c.enabled <;> cases c.lfsr.getLsbD 0 <;> simp

theorem Pulse.sample_le {c : Pulse} (h : c.volume ≤ 15) (nrx1 : Byte) : c.sample nrx1 ≤ 15 := by
  have hrow : ∀ code < 4, ∀ pos < 8, dutyTable code pos ≤ 1 := by decide
  have hduty : dutyTable (fieldOf nrx1 6 2) c.dutyPos ≤ 1 := by
    rcases Nat.lt_or_ge c.dutyPos 8 with hlt | hge
    · exact hrow _ (fieldOf_lt nrx1 6 2) _ hlt
    · rw [dutyTable_eq (fieldOf_lt nrx1 6 2), List.getD_eq_default]
      · decide
      · have hlen : ∀ code < 4, ([[0, 0, 0, 0, 0, 0, 0, 1], [1, 0, 0, 0, 0, 0, 0, 1], [1, 0, 0, 0, 0, 1, 1, 1],
          [0, 1, 1, 1, 1, 1, 1, 0]].getD code ([] : List Nat)).length ≤ 8 := by decide
        exact (hlen _ (fieldOf_lt nrx1 6 2)).trans hge
  unfold Pulse.sample
  split_ifs
  · calc c.volume * _ ≤ 15 * 1 := Nat.mul_le_mul h hduty
      _ = 15 := rfl
  · exact Nat.zero_le _

theorem Wave.sample_le (c : Wave) (wave : Memory) (nr32 : Byte) : c.sample wave nr32 ≤ 15 := by
  have hnibble : waveNibble wave c.wavePos ≤ 15 := by
    unfold waveNibble
    split_ifs
    · exact Nat.le_of_lt_succ (fieldOf_lt _ 4 4)
    · exact Nat.le_of_lt_succ (fieldOf_lt _ 0 4)
  unfold Wave.sample
  split_ifs
  · exact (Nat.div_le_self _ _).trans hnibble
  · exact Nat.zero_le _

theorem Noise.sample_le {c : Noise} (h : c.volume ≤ 15) : c.sample ≤ 15 := by
  rw [Noise.sample_eq]
  split_ifs
  · exact h
  · exact Nat.zero_le _

theorem toNat_mul_eq_ite (b : Bool) (n : Nat) : b.toNat * n = if b then n else 0 := by cases b <;> simp

/-- One side of rule R545, with no wrap. -/
theorem mixSide_le {master s1 s2 s3 s4 : Nat} (gate : Byte) (lo : Nat) (hm : master ≤ 7) (h1 : s1 ≤ 15) (h2 : s2 ≤ 15)
    (h3 : s3 ≤ 15) (h4 : s4 ≤ 15) : mixSide master gate lo s1 s2 s3 s4 ≤ 67 := by
  have hgate : ∀ (b : Bool) {n : Nat}, n ≤ 15 → b.toNat * n ≤ 15 := fun b n h => by cases b <;> simp [h]
  have := hgate (bitOf gate lo) h1
  have := hgate (bitOf gate (lo + 1)) h2
  have := hgate (bitOf gate (lo + 2)) h3
  have := hgate (bitOf gate (lo + 3)) h4
  unfold mixSide
  omega

/-- Both sides of rule R545 as numbers. -/
theorem Apu.mix_toNat {u : Apu} (hu : u.InRange) (hon : u.on = true) :
    (u.mix.1.toNat = mixSide (fieldOf u.regs.nr50 4 3) u.regs.nr51 4 (u.ch1.sample u.regs.nr11)
        (u.ch2.sample u.regs.nr21) (u.ch3.sample u.wave u.regs.nr32) u.ch4.sample ∧ u.mix.1.toNat ≤ 67) ∧
    u.mix.2.toNat = mixSide (fieldOf u.regs.nr50 0 3) u.regs.nr51 0 (u.ch1.sample u.regs.nr11)
        (u.ch2.sample u.regs.nr21) (u.ch3.sample u.wave u.regs.nr32) u.ch4.sample ∧ u.mix.2.toNat ≤ 67 := by
  obtain ⟨hv1, hv2, hv4⟩ := hu.volumes
  have side (master lo : Nat) (hm : master ≤ 7) := mixSide_le u.regs.nr51 lo hm (Pulse.sample_le hv1 u.regs.nr11)
    (Pulse.sample_le hv2 u.regs.nr21) (u.ch3.sample_le u.wave u.regs.nr32) (Noise.sample_le hv4)
  have hleft := side _ 4 (fieldOf_le_seven u.regs.nr50 4)
  have hright := side _ 0 (fieldOf_le_seven u.regs.nr50 0)
  rw [show u.mix = _ from if_pos hon]
  have toNat_small : ∀ {k : Nat}, k ≤ 67 → (BitVec.ofNat 8 k).toNat = k := fun h => Nat.mod_eq_of_lt (by omega)
  dsimp only
  rw [toNat_small hleft, toNat_small hright]
  exact ⟨⟨rfl, hleft⟩, rfl, hright⟩

/-- Settles O49: each channel's first period (`Pulse.advance_cases` and its like), the noise step's bits, the samples as
numbers, and sums that stay below a byte (`Apu.mix_toNat`). -/
theorem channelsAdvanceSampleAndMix : Obligations.ChannelsAdvanceSampleAndMix := by
  unfold Obligations.ChannelsAdvanceSampleAndMix
  refine ⟨fun c freq n hf hpos => c.advance_cases n hf hpos, fun c freq n hf hpos => c.advance_cases n hf hpos,
    fun c nr43 n => ?_, lfsrStep_bits, fun u clockHz n hon _ => ?_, Pulse.sample_eq, Wave.sample_eq, Noise.sample_eq,
    fun u hu => ?_⟩
  · dsimp only
    rw [← noisePeriod_eq]
    exact c.advance_cases nr43 n
  · simp only [← freqOf_eq]
    exact if_pos hon
  · intro s1 s2 s3 s4 gate
    cases hon : u.on with
    | false =>
      have hmix : u.mix = (0, 0) := if_neg (Bool.not_eq_true _ ▸ hon)
      rw [hmix]
      exact ⟨fun _ => rfl, fun h => Bool.noConfusion (h.symm.trans hon), by decide, by decide⟩
    | true =>
      obtain ⟨⟨hleft, hl⟩, hright, hr⟩ := Apu.mix_toNat hu hon
      refine ⟨fun h => Bool.noConfusion (hon.symm.trans h), fun _ => ⟨?_, ?_⟩, hl, hr⟩
      · rw [hleft, mixSide]
        simp only [toNat_mul_eq_ite]
        rfl
      · rw [hright, mixSide, fieldOf_zero_three]
        simp only [toNat_mul_eq_ite]
        rfl

end Sys2Proof.Machine
end

section
/-! SUPPORT. The resampler (rules R500, R550, R551): enough rounds of its loop are as good as any larger number, and one
emitted pair is one draw followed by the loop from the rest. -/

namespace Sys2Proof.Machine

/-! ## What the channels leave alone -/

/-- The resampler's counter and threshold (rule R77). -/
def Apu.resampler (u : Apu) : Nat × Nat := (u.resampleAcc, u.resampleThreshold)

theorem Apu.sweepTick_resampler (u : Apu) : u.sweepTick.resampler = u.resampler := by
  unfold Apu.sweepTick Apu.sweepRecalc
  dsimp only
  split_ifs <;> rfl

theorem Apu.fsTick_resampler (u : Apu) : u.fsTick.resampler = u.resampler := by
  have hlength : (if u.fsStep % 2 = 0 then u.lengthTicks else u).resampler = u.resampler := by split_ifs <;> rfl
  unfold Apu.fsTick
  dsimp only
  generalize (if u.fsStep % 2 = 0 then u.lengthTicks else u) = w at hlength ⊢
  have hsweep : (if u.fsStep = 2 ∨ u.fsStep = 6 then w.sweepTick else w).resampler = u.resampler := by
    split_ifs
    · exact w.sweepTick_resampler.trans hlength
    · exact hlength
  generalize (if u.fsStep = 2 ∨ u.fsStep = 6 then w.sweepTick else w) = w' at hsweep ⊢
  split_ifs <;> exact hsweep

theorem Apu.iterate_fsTick_resampler (n : Nat) (u : Apu) : (Apu.fsTick^[n] u).resampler = u.resampler := by
  induction n generalizing u with
  | zero => rfl
  | succ n ih => exact (ih u.fsTick).trans u.fsTick_resampler

theorem Apu.advanceChannels_resampler (u : Apu) (clockHz n : Nat) :
    (u.advanceChannels clockHz n).resampler = u.resampler := by
  unfold Apu.advanceChannels
  split_ifs
  · exact Apu.iterate_fsTick_resampler _ { u with fsAcc := leftover (u.fsAcc + n) (fsPeriod clockHz) }
  · rfl

/-! ## The loop -/

section
variable {x : ApuIo} {fuel : Nat}

/-- The counter has reached the threshold. -/
def ApuIo.Due (x : ApuIo) : Prop := x.apu.resampleThreshold ≤ x.apu.resampleAcc

theorem ApuIo.resample_of_not_due (h : ¬ x.Due) : ∀ fuel, ApuIo.resample fuel x = x
  | 0 => rfl
  | _ + 1 => if_neg h

theorem ApuIo.resample_of_due (h : x.Due) : ApuIo.resample (fuel + 1) x = ApuIo.resample fuel x.emit := if_pos h

theorem nudge_pos (t : Nat) (d : Throttle) : 1 ≤ nudge t d := by cases d <;> exact Nat.le_max_left 1 _

theorem ApuIo.emit_threshold (x : ApuIo) :
    x.emit.apu.resampleThreshold = nudge x.apu.resampleThreshold x.host.draw.1 := rfl

theorem ApuIo.emit_acc (x : ApuIo) :
    x.emit.apu.resampleAcc = x.apu.resampleAcc - x.apu.resampleThreshold := rfl

/-- A pair takes at least one from the counter. -/
theorem ApuIo.Due.emit_acc_lt (h : x.Due) (ht : 1 ≤ x.apu.resampleThreshold) (hfuel : x.apu.resampleAcc < fuel + 1) :
    x.emit.apu.resampleAcc < fuel := by
  unfold ApuIo.Due at h
  rw [x.emit_acc]
  omega

/-- Enough rounds leave the counter below the threshold. -/
theorem ApuIo.resample_not_due (ht : 1 ≤ x.apu.resampleThreshold) (hfuel : x.apu.resampleAcc < fuel) :
    ¬ (ApuIo.resample fuel x).Due := by
  induction fuel generalizing x with
  | zero => exact absurd hfuel (Nat.not_lt_zero _)
  | succ fuel ih =>
    by_cases h : x.Due
    · rw [ApuIo.resample_of_due h]
      exact ih (nudge_pos _ _) (h.emit_acc_lt ht hfuel)
    · rwa [ApuIo.resample_of_not_due h]

/-- Any two numbers of rounds that are enough are the same loop. -/
theorem ApuIo.resample_fuel {fuel' : Nat} (ht : 1 ≤ x.apu.resampleThreshold) (hfuel : x.apu.resampleAcc < fuel)
    (hfuel' : x.apu.resampleAcc < fuel') : ApuIo.resample fuel x = ApuIo.resample fuel' x := by
  induction fuel generalizing x fuel' with
  | zero => exact absurd hfuel (Nat.not_lt_zero _)
  | succ fuel ih =>
    obtain ⟨fuel', rfl⟩ : ∃ k, fuel' = k + 1 := ⟨fuel' - 1, by omega⟩
    by_cases h : x.Due
    · rw [ApuIo.resample_of_due h, ApuIo.resample_of_due h]
      exact ih (nudge_pos _ _) (h.emit_acc_lt ht hfuel) (h.emit_acc_lt ht hfuel')
    · rw [ApuIo.resample_of_not_due h, ApuIo.resample_of_not_due h]

/-- Every pair of the loop is the mix at its start. -/
theorem ApuIo.resample_audio (fuel : Nat) (x : ApuIo) :
    ∃ k, (ApuIo.resample fuel x).audio = x.audio ++ List.replicate k x.apu.mix ∧ (¬ x.Due → k = 0) ∧
      (x.Due → 0 < fuel → 0 < k) := by
  induction fuel generalizing x with
  | zero => exact ⟨0, (List.append_nil _).symm, fun _ => rfl, fun _ h => absurd h (Nat.lt_irrefl 0)⟩
  | succ fuel ih =>
    by_cases h : x.Due
    · obtain ⟨k, haudio, -, -⟩ := ih x.emit
      refine ⟨k + 1, ?_, fun hnot => absurd h hnot, fun _ _ => Nat.succ_pos k⟩
      rw [ApuIo.resample_of_due h, haudio, List.replicate_succ]
      exact List.append_assoc _ _ _
    · rw [ApuIo.resample_of_not_due h]
      exact ⟨0, (List.append_nil _).symm, fun _ => rfl, fun hdue => absurd hdue h⟩

/-- What the loop's course depends on: counter, threshold and the draws. -/
def ApuIo.SameCourse (x z : ApuIo) : Prop := x.apu.resampler = z.apu.resampler ∧ x.host = z.host

theorem ApuIo.SameCourse.iff {z : ApuIo} : x.SameCourse z ↔ x.apu.resampleAcc = z.apu.resampleAcc ∧
    x.apu.resampleThreshold = z.apu.resampleThreshold ∧ x.host = z.host := by
  simp [ApuIo.SameCourse, Apu.resampler, and_assoc]

theorem ApuIo.SameCourse.resample {z : ApuIo} (h : x.SameCourse z) :
    (ApuIo.resample fuel x).SameCourse (ApuIo.resample fuel z) ∧
    (ApuIo.resample fuel x).audio.length + z.audio.length =
      x.audio.length + (ApuIo.resample fuel z).audio.length := by
  induction fuel generalizing x z with
  | zero => exact ⟨h, rfl⟩
  | succ fuel ih =>
    obtain ⟨hacc, hthreshold, hhost⟩ := ApuIo.SameCourse.iff.1 h
    have hiff : x.Due ↔ z.Due := by rw [ApuIo.Due, ApuIo.Due, hacc, hthreshold]
    by_cases hdue : x.Due
    · have hemit : x.emit.SameCourse z.emit := ApuIo.SameCourse.iff.2
        ⟨by rw [x.emit_acc, z.emit_acc, hacc, hthreshold],
          by rw [x.emit_threshold, z.emit_threshold, hthreshold, hhost],
          congrArg (fun h => h.draw.2) hhost⟩
      obtain ⟨hcourse, hlength⟩ := ih hemit
      have hx : x.emit.audio.length = x.audio.length + 1 := List.length_append
      have hz : z.emit.audio.length = z.audio.length + 1 := List.length_append
      rw [ApuIo.resample_of_due hdue, ApuIo.resample_of_due (hiff.1 hdue)]
      exact ⟨hcourse, by omega⟩
    · rw [ApuIo.resample_of_not_due hdue, ApuIo.resample_of_not_due (mt hiff.2 hdue)]
      exact ⟨h, rfl⟩

/-- A draw that keeps the threshold, from the host's list. -/
theorem HostPort.draw_of_keep {h : HostPort} {k : Nat} (hdraws : h.draws = List.replicate (k + 1) .keep) :
    h.draw.1 = .keep ∧ h.draw.2.draws = List.replicate k .keep := by
  rw [List.replicate_succ] at hdraws
  unfold HostPort.draw
  rw [hdraws]
  exact ⟨rfl, rfl⟩

/-- While the threshold is kept the loop divides. -/
theorem ApuIo.resample_of_keep {t k : Nat} (ht : 1 ≤ t) (hthreshold : x.apu.resampleThreshold = t)
    (hfuel : x.apu.resampleAcc < fuel) (hk : x.apu.resampleAcc / t ≤ k)
    (hdraws : x.host.draws = List.replicate k .keep) :
    (ApuIo.resample fuel x).audio.length = x.audio.length + x.apu.resampleAcc / t ∧
    (ApuIo.resample fuel x).apu.resampleAcc = x.apu.resampleAcc % t ∧
    (ApuIo.resample fuel x).apu.resampleThreshold = t := by
  induction fuel generalizing x k with
  | zero => exact absurd hfuel (Nat.not_lt_zero _)
  | succ fuel ih =>
    by_cases h : x.Due
    · have hle : t ≤ x.apu.resampleAcc := hthreshold ▸ h
      have hdiv : x.apu.resampleAcc / t = (x.apu.resampleAcc - t) / t + 1 := Nat.div_eq_sub_div ht hle
      rw [hdiv] at hk ⊢
      obtain ⟨k, rfl⟩ : ∃ j, k = j + 1 := ⟨k - 1, (Nat.sub_add_cancel ((Nat.le_add_left 1 _).trans hk)).symm⟩
      obtain ⟨hkeep, hrest⟩ := HostPort.draw_of_keep hdraws
      have hacc : x.emit.apu.resampleAcc = x.apu.resampleAcc - t := by rw [x.emit_acc, hthreshold]
      have hthreshold' : x.emit.apu.resampleThreshold = t := by
        rw [x.emit_threshold, hkeep, hthreshold]
        exact Nat.max_eq_right ht
      obtain ⟨hlength, hacc', hthreshold''⟩ :=
        ih hthreshold' (h.emit_acc_lt (hthreshold ▸ ht) hfuel) (by rw [hacc]; exact Nat.le_of_succ_le_succ hk) hrest
      rw [ApuIo.resample_of_due h]
      refine ⟨?_, ?_, hthreshold''⟩
      · have hone : x.emit.audio.length = x.audio.length + 1 := List.length_append
        rw [hlength, hone, hacc, Nat.add_assoc, Nat.add_comm 1]
      · rw [hacc', hacc, ← Nat.mod_eq_sub_mod hle]
    · have hlt : x.apu.resampleAcc < t := Nat.lt_of_not_le (hthreshold ▸ h)
      rw [ApuIo.resample_of_not_due h, Nat.div_eq_of_lt hlt, Nat.mod_eq_of_lt hlt]
      exact ⟨rfl, rfl, hthreshold⟩

end

/-! ## The advance -/

/-- The sound unit after its channels have advanced and its counter has taken the cycles. -/
def ApuIo.charged (x : ApuIo) (clockHz n : Nat) : ApuIo :=
  { x with
    apu := { x.apu.advanceChannels clockHz n with
      resampleAcc := (x.apu.advanceChannels clockHz n).resampleAcc + n } }

theorem ApuIo.charged_acc (x : ApuIo) (clockHz n : Nat) :
    (x.charged clockHz n).apu.resampleAcc = x.apu.resampleAcc + n :=
  congrArg (· + n) (congrArg Prod.fst (x.apu.advanceChannels_resampler clockHz n))

theorem ApuIo.charged_threshold (x : ApuIo) (clockHz n : Nat) :
    (x.charged clockHz n).apu.resampleThreshold = x.apu.resampleThreshold :=
  congrArg Prod.snd (x.apu.advanceChannels_resampler clockHz n)

theorem ApuIo.advance_eq (x : ApuIo) (clockHz n : Nat) :
    x.advance clockHz n = ApuIo.resample (x.apu.resampleAcc + n + 1) (x.charged clockHz n) := by
  rw [← x.charged_acc clockHz n]
  rfl

/-- Settles O50: the advance is the loop from the charged unit (`ApuIo.advance_eq`); a round of it is one pair, and the
loop from there is that of any unit with the same counter, threshold and draws (`ApuIo.SameCourse.resample`). -/
theorem resamplerEmitsAtThreshold : Obligations.ResamplerEmitsAtThreshold := by
  unfold Obligations.ResamplerEmitsAtThreshold
  intro x clockHz n ht y total t draw next
  have hdraw : draw = x.host.draw := rfl
  have hnext : next = nudge t x.host.draw.1 := by
    unfold next
    rw [hdraw]
    cases x.host.draw.1 with
    | down => rfl
    | keep => exact (Nat.max_eq_right ht).symm
    | up => exact (Nat.max_eq_right (Nat.le_add_left 1 t)).symm
  generalize hu : x.charged clockHz n = u
  have hacc : u.apu.resampleAcc = total := hu ▸ x.charged_acc clockHz n
  have hthreshold : u.apu.resampleThreshold = t := hu ▸ x.charged_threshold clockHz n
  have hhost : u.host = x.host := hu ▸ rfl
  have haudio : u.audio = x.audio := hu ▸ rfl
  have hmix : u.apu.mix = (x.apu.advanceChannels clockHz n).mix := hu ▸ rfl
  have hdue : u.Due ↔ t ≤ total := by rw [ApuIo.Due, hacc, hthreshold]
  have hy : y = ApuIo.resample (total + 1) u := hu ▸ x.advance_eq clockHz n
  have ht' : 1 ≤ u.apu.resampleThreshold := hthreshold.symm ▸ ht
  have hfuel : u.apu.resampleAcc < total + 1 := by omega
  have hemitAcc : u.emit.apu.resampleAcc = total - t := by rw [u.emit_acc, hacc, hthreshold]
  have hemitThreshold : u.emit.apu.resampleThreshold = next := by rw [u.emit_threshold, hthreshold, hhost, hnext]
  have hemitHost : u.emit.host = draw.2 := by rw [hdraw, ← hhost]; rfl
  have hemitAudio : u.emit.audio = x.audio ++ [(x.apu.advanceChannels clockHz n).mix] := by
    rw [← hmix, ← haudio]; rfl
  refine ⟨?_, fun hlt => ?_, ?_, fun hle hrest => ?_, fun hle z m hzacc hzthreshold hzhost => ?_, fun k hk hdraws => ?_⟩
  · rw [hy]
    exact Nat.lt_of_not_le (ApuIo.resample_not_due ht' hfuel)
  · rw [hy, ApuIo.resample_of_not_due (mt hdue.1 (Nat.not_le.2 hlt))]
    exact ⟨haudio, hhost, hacc, hthreshold⟩
  · obtain ⟨k, hk, hzero, hpos⟩ := ApuIo.resample_audio (total + 1) u
    refine ⟨k, by rw [hy, hk, haudio, hmix], fun h => hpos (hdue.2 h) (Nat.succ_pos _), fun h => ?_⟩
    by_contra hnot
    exact h.ne' (hzero (mt hdue.1 hnot))
  · have hnot : ¬ u.emit.Due := by
      rw [ApuIo.Due, hemitAcc, hemitThreshold]
      exact Nat.not_le.2 hrest
    rw [hy, ApuIo.resample_of_due (hdue.2 hle), ApuIo.resample_of_not_due hnot]
    exact ⟨hemitThreshold, hemitAcc, hemitHost, hemitAudio⟩
  · have hcourse : u.emit.SameCourse (z.charged clockHz m) := ApuIo.SameCourse.iff.2
      ⟨by rw [hemitAcc, z.charged_acc, hzacc], by rw [hemitThreshold, z.charged_threshold, hzthreshold],
        hemitHost.trans hzhost.symm⟩
    have hw : z.advance clockHz m = ApuIo.resample total (z.charged clockHz m) := by
      rw [z.advance_eq]
      refine ApuIo.resample_fuel ?_ (by rw [z.charged_acc]; omega) (by rw [z.charged_acc]; omega)
      rw [z.charged_threshold, hzthreshold, hnext]
      exact nudge_pos _ _
    obtain ⟨hsame, hlength⟩ := hcourse.resample (fuel := total)
    rw [← hw, ← ApuIo.resample_of_due (hdue.2 hle), ← hy] at hsame hlength
    obtain ⟨hacc', hthreshold', hhost'⟩ := ApuIo.SameCourse.iff.1 hsame
    rw [hemitAudio, List.length_append] at hlength
    exact ⟨hthreshold', hacc', hhost', hlength⟩
  · rw [hy]
    have h := ApuIo.resample_of_keep ht hthreshold hfuel (k := k) (by rw [hacc]; exact hk) (by rw [hhost]; exact hdraws)
    rw [hacc, haudio] at h
    exact h

end Sys2Proof.Machine
end

section
/-! SUPPORT. What every instruction reports (rules R641, R24, R310): its table's cycles, and PC past it unless it is a
control transfer, by the shape of its meaning. -/

namespace Sys2Proof.Machine

/-! ## Memory and stack accesses leave PC alone -/

theorem State.writeByte_pc {s t : State} {a : Word} {v : Byte} (h : s.writeByte a v = .done () t) :
    t.regs.pc = s.regs.pc := congrArg Regs.pc (State.writeByte_regs h)

theorem State.writeWord_pc {s t : State} {a v : Word} (h : s.writeWord a v = .done () t) :
    t.regs.pc = s.regs.pc := by
  unfold State.writeWord at h
  split at h
  · cases h
  · rename_i hlow; exact (State.writeByte_pc h).trans (State.writeByte_pc hlow)

theorem State.push16_pc {s t : State} {v : Word} (h : s.push16 v = .done () t) : t.regs.pc = s.regs.pc := by
  have hbyte : ∀ {u w : State} {b : Byte}, u.pushByte b = .done () w → w.regs.pc = u.regs.pc :=
    fun {u _ _} hw => State.writeByte_pc (s := u.setSp (u.regs.sp - 1)) hw
  unfold State.push16 at h
  split at h
  · cases h
  · rename_i hhigh; exact (hbyte h).trans (hbyte hhigh)

theorem State.pop16_pc {s t : State} {v : Word} (h : s.pop16 = .done v t) : t.regs.pc = s.regs.pc := by
  have hbyte : ∀ {u w : State} {b : Byte}, u.popByte = .done b w → w.regs.pc = u.regs.pc := fun hw => by
    unfold State.popByte at hw
    split at hw <;> cases hw
    rfl
  unfold State.pop16 at h
  split at h
  · cases h
  · rename_i hlow
    split at h
    · cases h
    · rename_i hhigh; cases h; exact (hbyte hhigh).trans (hbyte hlow)

theorem State.setRr_pc (s : State) (p : PairRR) (v : Word) : (s.setRr p v).regs.pc = s.regs.pc := by cases p <;> rfl

theorem State.setQq_pc (s : State) (p : PairQQ) (v : Word) : (s.setQq p v).regs.pc = s.regs.pc := by cases p <;> rfl

theorem State.enableInterrupts_pc (s : State) : s.enableInterrupts.regs.pc = s.regs.pc := by
  unfold State.enableInterrupts
  split_ifs <;> rfl

/-! ## Through an instruction -/

/-- A next state of `x` that has not crashed reports `cycles`, and stands at `pc` where that names an address. -/
def Reports (cycles : Nat) (pc : Option Word) (x : Result) : Prop :=
  ∀ t, x = .next t → t.Alive → t.cyc = cycles ∧ ∀ a ∈ pc, t.regs.pc = a

namespace Reports

variable {s : State} {n : Nat} {pc : Option Word}

theorem retire {t : State} {a : Word} {len : Nat} (h : t.regs.pc = a) :
    Reports n (some (a + BitVec.ofNat 16 len)) (t.retire len n) := fun u hu _ => by
  injection hu with hu
  subst hu
  refine ⟨rfl, fun b hb => ?_⟩
  obtain rfl := Option.mem_some_iff.1 hb
  exact congrArg (· + BitVec.ofNat 16 len) h

theorem anywhere {x : Result} (h : Reports n pc x) : Reports n none x := fun u hu ha =>
  ⟨(h u hu ha).1, fun _ hb => nomatch hb⟩

theorem jump {t : State} {a : Word} : Reports n none (t.jump a n) := fun u hu _ => by
  injection hu with hu
  subst hu
  exact ⟨rfl, fun _ hb => nomatch hb⟩

theorem crashed {t : State} {c : Fatal} (h : t.run = .crashed c) : Reports n pc (.next t) := fun u hu ha => by
  injection hu with hu
  exact absurd (hu ▸ h) (ha c)

/-- A conditional transfer, by its condition. -/
theorem cond {cycles : Bool → Nat} {c : Bool} {x y : Result} (hx : Reports (cycles true) pc x)
    (hy : Reports (cycles false) pc y) : Reports (cycles c) pc (if c then x else y) := by
  cases c
  · exact hy
  · exact hx

theorem load {a : Word} {k : Byte → Result} (hk : ∀ v, Reports n pc (k v)) : Reports n pc (s.withLoad a k) := by
  unfold State.withLoad
  split
  · exact hk _
  · exact crashed (State.crash_run _ _)

theorem store {a : Word} {v : Byte} {k : State → Result} (hk : ∀ u, u.regs.pc = s.regs.pc → Reports n pc (k u)) :
    Reports n pc (s.withStore a v k) := by
  unfold State.withStore
  split
  · exact hk _ (State.writeByte_pc ‹_›)
  · exact crashed (State.crash_run _ _)

theorem storeWord {a v : Word} {k : State → Result} (hk : ∀ u, u.regs.pc = s.regs.pc → Reports n pc (k u)) :
    Reports n pc (s.withStoreWord a v k) := by
  unfold State.withStoreWord
  split
  · exact hk _ (State.writeWord_pc ‹_›)
  · exact crashed (State.crash_run _ _)

theorem modify {f : Byte → Byte} {k : Byte → State → Result}
    (hk : ∀ v u, u.regs.pc = s.regs.pc → Reports n pc (k v u)) : Reports n pc (s.modifyHl f k) :=
  load fun v => store (hk v)

theorem push {v : Word} {k : State → Result} (hk : ∀ u, u.regs.pc = s.regs.pc → Reports n pc (k u)) :
    Reports n pc (s.withPush v k) := by
  unfold State.withPush
  split
  · exact hk _ (State.push16_pc ‹_›)
  · exact crashed (State.crash_run _ _)

theorem pop {k : Word → State → Result} (hk : ∀ v u, u.regs.pc = s.regs.pc → Reports n pc (k v u)) :
    Reports n pc (s.withPop k) := by
  unfold State.withPop
  split
  · exact hk _ _ (State.pop16_pc ‹_›)
  · exact crashed (State.crash_run _ _)

theorem call {len : Nat} {a : Word} : Reports n none (s.call len a n) := push fun _ _ => jump

theorem popPc : Reports n none (s.return n) := pop fun _ _ _ => jump

theorem shiftReg (r : Reg8) (out : Byte × Bool) :
    Reports 8 (some (s.regs.pc + BitVec.ofNat 16 2)) (s.shiftReg r out) := retire (s.setReg_regs_pc r out.1)

theorem shiftHl (f : Byte → Byte × Bool) : Reports 16 (some (s.regs.pc + BitVec.ofNat 16 2)) (s.shiftHl f) :=
  modify fun _ _ hu => retire hu

end Reports

/-- Whether the case taken is reported: the condition of a conditional transfer. -/
def takenIn (i : Instr) (s : State) : Bool := (conditionOf i).elim true s.holds

/-- Where an instruction that is no control transfer ends. -/
def endPc (i : Instr) (s : State) : Option Word :=
  if isTransfer i then none else some (s.regs.pc + BitVec.ofNat 16 i.length)

open Reports in
theorem exec_reports {i : Instr} (hi : ∀ op2, i ≠ .prefixCb op2) (s : State) :
    Reports (i.cycles (takenIn i s)) (endPc i s) (exec i s) := by
  cases i with
  | prefixCb op2 => exact absurd rfl (hi op2)
  -- an update of registers and flags
  | rlca | rrca | rla | rra | daa | cpl | scf | ccf | addAN | adcAN | subN | sbcAN | andN | xorN | orN | cpN | addSpE
  | ldHlSpE | addHlRr | addAR | adcAR | subR | sbcAR | andR | xorR | orR | cpR | bitR | nop | halt | stop | di
  | ldSpHl => exact retire rfl
  | ei => exact retire s.enableInterrupts_pc
  | incR r | decR r | ldRN r | ldRR r | resR _ r | setR _ r => exact retire (s.setReg_regs_pc r _)
  | rlcR r | rrcR r | rlR r | rrR r | slaR r | sraR r | swapR r | srlR r => exact shiftReg r _
  | ldRrNn p | incRr p | decRr p => exact retire (s.setRr_pc p _)
  -- loads and stores
  | addAHl | adcAHl | subHl | sbcAHl | andHl | xorHl | orHl | cpHl | bitHl | ldABc | ldADe | ldAHli | ldAHld | ldhAN
  | ldhAC | ldANn => exact load fun _ => retire rfl
  | ldRHl r => exact load fun v => retire (s.setReg_regs_pc r v)
  | ldBcA | ldDeA | ldHliA | ldHldA | ldHlN | ldHlR | ldNnA | ldhNA | ldhCA => exact store fun _ hu => retire hu
  | ldNnSp => exact storeWord fun _ hu => retire hu
  | incHlMem | decHlMem | resHl | setHl => exact modify fun _ _ hu => retire hu
  | rlcHl | rrcHl | rlHl | rrHl | slaHl | sraHl | swapHl | srlHl => exact shiftHl _
  -- the stack
  | pushQq => exact push fun _ hu => retire hu
  | popAf => exact pop fun _ _ hu => retire hu
  | popQq p => exact pop fun v u hu => retire ((u.setQq_pc p v).trans hu)
  -- control transfers
  | jpNn | jpHl | jrE => exact jump
  | callNn | rstT => exact call
  | ret => exact popPc
  | reti => exact pop fun _ _ _ => jump
  | jrCcE cc e => exact cond (cycles := (Instr.jrCcE cc e).cycles) jump (retire rfl).anywhere
  | jpCcNn cc nn => exact cond (cycles := (Instr.jpCcNn cc nn).cycles) jump (retire rfl).anywhere
  | callCcNn cc nn => exact cond (cycles := (Instr.callCcNn cc nn).cycles) call (retire rfl).anywhere
  | retCc cc => exact cond (cycles := (Instr.retCc cc).cycles) popPc (retire rfl).anywhere
  -- the opcodes without a table entry
  | unrecD3 | unrecDB | unrecDD | unrecE3 | unrecE4 | unrecEB | unrecEC | unrecED | unrecF4 | unrecFC | unrecFD =>
    exact crashed rfl

/-- An extended instruction has length 2, is no transfer, and is no `prefixCb`. -/
theorem extendedInstr_shape (op2 : Byte) :
    (∀ o, extendedInstr op2 ≠ .prefixCb o) ∧ conditionOf (extendedInstr op2) = none ∧
    isTransfer (extendedInstr op2) = false ∧ (extendedInstr op2).length = 2 := by
  unfold extendedInstr
  dsimp only
  split
  case h_17 | h_18 => split_ifs <;> exact ⟨nofun, rfl, rfl, rfl⟩
  all_goals exact ⟨nofun, rfl, rfl, rfl⟩

/-- 0xCB has no cost of its own (rule R335). -/
theorem cycles_prefixCb (op2 : Byte) (taken : Bool) :
    (Instr.prefixCb op2).cycles taken = (extendedInstr op2).cycles taken := by
  have hcycles : ∀ i : Instr, (∀ o, i ≠ .prefixCb o) → i.cycles taken = i.cyclesOf taken := fun i hi => by
    cases i with
    | prefixCb o => exact absurd rfl (hi o)
    | _ => rfl
  rw [hcycles _ (extendedInstr_shape op2).1, Instr.cycles, lookupExt_eq]
  rfl

theorem exec_prefixCb_reports (op2 : Byte) (s : State) :
    Reports ((Instr.prefixCb op2).cycles true) (endPc (.prefixCb op2) s) (exec (.prefixCb op2) s) := by
  obtain ⟨hne, hcond, htransfer, hlength⟩ := extendedInstr_shape op2
  have hreports := exec_reports hne s
  have hend : endPc (extendedInstr op2) s = endPc (.prefixCb op2) s := by
    rw [endPc, htransfer, hlength]
    rfl
  have htaken : takenIn (extendedInstr op2) s = true := by rw [takenIn, hcond]; rfl
  rwa [hend, htaken, ← cycles_prefixCb, ← exec_prefixCb] at hreports

/-- Settles O31: what an instruction reports (`exec_reports`), 0xCB as the instruction it runs. -/
theorem instructionsReportCyclesAndLength : Obligations.InstructionsReportCyclesAndLength := by
  unfold Obligations.InstructionsReportCyclesAndLength
  intro i s t hexec ht
  have hreports : Reports (i.cycles (takenIn i s)) (endPc i s) (exec i s) := by
    by_cases hi : ∃ op2, i = .prefixCb op2
    · obtain ⟨op2, rfl⟩ := hi
      exact exec_prefixCb_reports op2 s
    · exact exec_reports (not_exists.1 hi) s
  obtain ⟨hcyc, hpc⟩ := hreports t hexec ht
  refine ⟨fun cc hcc => ?_, fun hnone => ?_, fun htransfer => hpc _ ?_⟩
  · rw [hcyc, takenIn, hcc]
    rfl
  · rw [hcyc, takenIn, hnone]
    rfl
  · rw [endPc, htransfer]
    rfl

end Sys2Proof.Machine
end

section
/-! SUPPORT. The sprites a line keeps (rule R460): the overlapping entries in index order, sorted by X with ties kept,
and what a cut of an ordered list leaves out. -/

namespace Sys2Proof.Machine

/-- The first `n` of an ordered list come before what the cut leaves out. -/
theorem take_of_left_out {α : Type} {r : α → α → Prop} {l : List α} (hl : l.Pairwise r) {n : Nat} {i : α} (hi : i ∈ l)
    (hout : i ∉ l.take n) : (l.take n).length = n ∧ ∀ j ∈ l.take n, r j i := by
  have hdrop : i ∈ l.drop n := by
    rw [← List.take_append_drop n l] at hi
    exact (List.mem_append.1 hi).resolve_left hout
  have hlength := List.length_pos_of_mem hdrop
  rw [List.length_drop] at hlength
  rw [← List.take_append_drop n l] at hl
  exact ⟨by rw [List.length_take]; omega, fun j hj => (List.pairwise_append.1 hl).2.2 j hj i hdrop⟩

section
variable (p : Ppu)

/-- Entry `i` comes before entry `j` in ascending (X, index) order. -/
def Ppu.Before (i j : Nat) : Prop :=
  (p.oam.read (4 * i + 1)).toNat < (p.oam.read (4 * j + 1)).toNat ∨
  (p.oam.read (4 * i + 1)).toNat = (p.oam.read (4 * j + 1)).toNat ∧ i < j

theorem Ppu.mem_spriteHits (i : Nat) : i ∈ p.spriteHits ↔ i < 40 ∧ (p.oam.read (4 * i)).toNat ≤ p.ly + 16 ∧
    p.ly + 16 < (p.oam.read (4 * i)).toNat + if p.lcdc.getLsbD 2 then 16 else 8 := by
  unfold Ppu.spriteHits
  rw [List.mem_filter, List.mem_range, decide_eq_true_eq]
  rfl

theorem Ppu.spriteHits_pairwise : p.spriteHits.Pairwise (· < ·) := List.pairwise_lt_range.filter _

/-- An entry of lower index than every entry of a sorted list goes before the first one that is not left of it. -/
theorem Ppu.insertByX_pairwise (i : Nat) : ∀ l : List Nat, (∀ j ∈ l, i < j) → l.Pairwise p.Before →
    (p.insertByX i l).Pairwise p.Before
  | [], _, _ => List.pairwise_singleton _ _
  | j :: rest, hlow, hl => by
    obtain ⟨hj, hrest⟩ := List.pairwise_cons.1 hl
    have hij : i < j := hlow j List.mem_cons_self
    have hlow' : ∀ k ∈ rest, i < k := fun k hk => hlow k (List.mem_cons_of_mem j hk)
    have hx : ∀ a b, p.Before a b ↔ (p.sprite a 1).toNat < (p.sprite b 1).toNat ∨
      (p.sprite a 1).toNat = (p.sprite b 1).toNat ∧ a < b := fun _ _ => Iff.rfl
    unfold Ppu.insertByX
    split_ifs with h
    · refine List.pairwise_cons.2 ⟨fun k hk => ?_, hl⟩
      rcases List.mem_cons.1 hk with rfl | hk
      · rw [hx]
        omega
      · have hjk := hj k hk
        have hik := hlow' k hk
        rw [hx] at hjk ⊢
        omega
    · refine List.pairwise_cons.2 ⟨fun k hk => ?_, Ppu.insertByX_pairwise i rest hlow' hrest⟩
      rcases List.mem_cons.1 ((p.insertByX_perm i rest).mem_iff.1 hk) with rfl | hk
      · exact .inl (Nat.lt_of_not_le h)
      · exact hj k hk

theorem Ppu.sortByX_pairwise : ∀ l : List Nat, l.Pairwise (· < ·) → (p.sortByX l).Pairwise p.Before
  | [], _ => List.Pairwise.nil
  | i :: rest, hl => by
    obtain ⟨hi, hrest⟩ := List.pairwise_cons.1 hl
    exact p.insertByX_pairwise i _ (fun j hj => hi j ((p.sortByX_perm rest).mem_iff.1 hj))
      (Ppu.sortByX_pairwise rest hrest)

theorem Ppu.selection_of_disabled (h : p.lcdc.getLsbD 1 = false) (pick : SpritePick) : p.selection pick = [] :=
  if_neg (Bool.not_eq_true _ ▸ h)

section
variable (h : p.lcdc.getLsbD 1 = true)
include h

theorem Ppu.selection_table : p.selection .table = p.sortByX (p.spriteHits.take 10) := if_pos h

theorem Ppu.selection_x : p.selection .x = (p.sortByX p.spriteHits).take 10 := if_pos h

end

end

/-- Settles O45: with `table` the cut comes before the sort, with `x` after it. -/
theorem spriteSelectionKeepsTen : Obligations.SpriteSelectionKeepsTen := by
  unfold Obligations.SpriteSelectionKeepsTen
  intro p pick y before h hit q
  refine ⟨fun hoff => p.selection_of_disabled hoff pick, fun hon => ⟨p.selection_length pick, ?_⟩⟩
  have hhits := p.spriteHits_pairwise
  cases pick with
  | table =>
    have hq : ∀ i, i ∈ q ↔ i ∈ p.spriteHits.take 10 := fun i => by
      unfold q
      rw [p.selection_table hon]
      exact (p.sortByX_perm _).mem_iff
    refine ⟨?_, fun i hi => (p.mem_spriteHits i).1 (List.mem_of_mem_take ((hq i).1 hi)), fun i hi hout => ?_⟩
    · unfold q
      rw [p.selection_table hon]
      exact p.sortByX_pairwise _ (hhits.sublist (List.take_sublist _ _))
    · obtain ⟨hten, hbefore⟩ := take_of_left_out hhits ((p.mem_spriteHits i).2 hi) (mt (hq i).2 hout)
      refine ⟨?_, fun _ j hj => hbefore j ((hq j).1 hj), nofun⟩
      unfold q
      rw [p.selection_table hon, (p.sortByX_perm _).length_eq, hten]
  | x =>
    have hsorted := p.sortByX_pairwise _ hhits
    have hmem : ∀ i, i ∈ p.sortByX p.spriteHits ↔ i ∈ p.spriteHits := fun i => (p.sortByX_perm _).mem_iff
    unfold q
    rw [p.selection_x hon]
    refine ⟨hsorted.sublist (List.take_sublist _ _),
      fun i hi => (p.mem_spriteHits i).1 ((hmem i).1 (List.mem_of_mem_take hi)), fun i hi hout => ?_⟩
    obtain ⟨hten, hbefore⟩ := take_of_left_out hsorted ((hmem i).2 ((p.mem_spriteHits i).2 hi)) hout
    exact ⟨hten, nofun, fun _ => hbefore⟩

end Sys2Proof.Machine
end

section
/-! SUPPORT. The scanline machine (rule R435): what one pass does in each mode, that an advance leaves no transition
undone, and what the columns of pixel transfer leave in the layers and the frame. -/

namespace Sys2Proof.Machine

/-! ## What a column of pixel transfer writes -/

/-- `q` is `p` but for what pixel transfer writes while columns remain. -/
def Ppu.TransferFrame (p q : Ppu) : Prop :=
  q = { p with
    col := q.col, acc := q.acc, nextSprite := q.nextSprite, bg := q.bg, win := q.win, sprAbove := q.sprAbove
    sprBelow := q.sprBelow }

section
variable {p q : Ppu} (h : p.TransferFrame q)
include h

theorem Ppu.TransferFrame.mode_eq : q.mode = p.mode := by rw [h]

theorem Ppu.TransferFrame.ly_eq : q.ly = p.ly := by rw [h]

theorem Ppu.TransferFrame.coin_eq : q.coin = p.coin := by rw [h]

theorem Ppu.TransferFrame.statLine_eq : q.statLine = p.statLine := by rw [h]

theorem Ppu.TransferFrame.queue_eq : q.queue = p.queue := by rw [h]

theorem Ppu.TransferFrame.frame_eq : q.frame = p.frame := by rw [h]

end

/-- The sprite entry the next column draws (rule R461). -/
def Ppu.nextDrawn (p : Ppu) : Option Nat := if p.col % 16 = 0 then p.queue[p.nextSprite]? else none

/-- The next sprite of the queue, drawn at every 16th column. -/
def Ppu.drawNext (p : Ppu) : Ppu := if p.col % 16 = 0 then p.attemptSprite else p

theorem Ppu.drawNext_of_none {p : Ppu} (h : p.nextDrawn = none) : p.drawNext = p := by
  unfold Ppu.drawNext
  unfold Ppu.nextDrawn at h
  split_ifs at h ⊢
  · unfold Ppu.attemptSprite
    rw [h]
  · rfl

theorem Ppu.drawNext_of_some {p : Ppu} {i : Nat} (h : p.nextDrawn = some i) :
    p.drawNext = { p.drawSprite i with nextSprite := p.nextSprite + 1 } := by
  unfold Ppu.drawNext
  unfold Ppu.nextDrawn at h
  split_ifs at h ⊢
  unfold Ppu.attemptSprite
  rw [h]

theorem Ppu.drawNext_frame (p : Ppu) : p.drawNext = { p with
    nextSprite := p.nextSprite + p.nextDrawn.toList.length, sprAbove := p.drawNext.sprAbove
    sprBelow := p.drawNext.sprBelow } := by
  cases h : p.nextDrawn with
  | none => rw [p.drawNext_of_none h]; rfl
  | some i =>
    obtain ⟨above, below, hdraw⟩ := p.drawSprite_layers i
    rw [p.drawNext_of_some h, hdraw]
    rfl

theorem Ppu.renderColumn_eq (p : Ppu) : p.renderColumn =
    { (p.drawNext.renderBg p.col).renderWin p.col with col := p.col + 1, acc := p.acc - 1 } := rfl

theorem Ppu.renderColumn_acc (p : Ppu) : p.renderColumn.acc = p.acc - 1 := rfl

theorem Ppu.renderColumn_frame (p : Ppu) : p.TransferFrame p.renderColumn := by
  unfold Ppu.TransferFrame
  rw [p.renderColumn_eq, p.drawNext_frame]
  rfl

theorem Ppu.TransferFrame.trans {p q r : Ppu} (hq : p.TransferFrame q) (hr : q.TransferFrame r) : p.TransferFrame r :=
  Eq.trans hr (congrArg (fun z : Ppu => { z with
    col := r.col, acc := r.acc, nextSprite := r.nextSprite, bg := r.bg, win := r.win, sprAbove := r.sprAbove
    sprBelow := r.sprBelow }) hq)

theorem Ppu.iterate_renderColumn_frame : ∀ (k : Nat) (p : Ppu), p.TransferFrame (Ppu.renderColumn^[k] p)
  | 0, _ => rfl
  | k + 1, p => p.renderColumn_frame.trans (Ppu.iterate_renderColumn_frame k p.renderColumn)

theorem Ppu.iterate_renderColumn_col : ∀ (k : Nat) (p : Ppu), (Ppu.renderColumn^[k] p).col = p.col + k
  | 0, _ => rfl
  | k + 1, p => (Ppu.iterate_renderColumn_col k p.renderColumn).trans (by rw [p.renderColumn_col]; omega)

theorem Ppu.iterate_renderColumn_acc : ∀ (k : Nat) (p : Ppu), (Ppu.renderColumn^[k] p).acc = p.acc - k
  | 0, _ => rfl
  | k + 1, p => (Ppu.iterate_renderColumn_acc k p.renderColumn).trans (by rw [p.renderColumn_acc]; omega)

section
variable (p : Ppu)

theorem Ppu.renderColumns_frame : p.TransferFrame p.renderColumns := p.iterate_renderColumn_frame _

theorem Ppu.renderColumns_col : p.renderColumns.col = p.col + min p.acc (160 - p.col) := p.iterate_renderColumn_col _

theorem Ppu.renderColumns_acc : p.renderColumns.acc = p.acc - min p.acc (160 - p.col) := p.iterate_renderColumn_acc _

end

/-! ## One pass in each mode -/

/-- The cycles charged to the display, with its coincidence flag and status line. -/
def PpuIo.charge (x : PpuIo) (n : Nat) : PpuIo :=
  PpuIo.updateStat { x with ppu := ({ x.ppu with acc := x.ppu.acc + n } : Ppu).checkCoin }

/-- The end of OAM search. -/
def PpuIo.enterTransfer (x : PpuIo) (pick : SpritePick) : PpuIo :=
  PpuIo.updateStat { x with ppu := Ppu.beginTransfer { x.ppu with acc := x.ppu.acc - 80 } pick }

/-- The end of pixel transfer. -/
def PpuIo.enterHblank (x : PpuIo) : PpuIo :=
  PpuIo.updateStat { x with ppu := { x.ppu.renderColumns.composeLine with mode := .hblank } }

/-- The columns rendered while pixel transfer goes on. -/
def PpuIo.renderOn (x : PpuIo) : PpuIo := { x with ppu := x.ppu.renderColumns }

section
variable {x : PpuIo} (pick : SpritePick)

theorem PpuIo.advance_of_on (h : x.ppu.lcdc.getLsbD 7 = true) (n : Nat) :
    x.advance pick n = PpuIo.passes pick (x.ppu.acc + n + 3) (x.charge n) := if_pos h

theorem PpuIo.pass_oam_end (hm : x.ppu.mode = .oam) (h : 80 ≤ x.ppu.acc) :
    x.pass pick = (x.enterTransfer pick, true) := by
  unfold PpuIo.pass
  rw [hm]
  exact if_pos h

theorem PpuIo.pass_oam_wait (hm : x.ppu.mode = .oam) (h : x.ppu.acc < 80) : x.pass pick = (x, false) := by
  unfold PpuIo.pass
  rw [hm]
  exact if_neg (Nat.not_le.2 h)

theorem PpuIo.pass_transfer_end (hm : x.ppu.mode = .transfer) (h : x.ppu.renderColumns.col = 160) :
    x.pass pick = (x.enterHblank, true) := by
  unfold PpuIo.pass
  rw [hm]
  exact if_pos h

theorem PpuIo.pass_transfer_wait (hm : x.ppu.mode = .transfer) (h : x.ppu.renderColumns.col ≠ 160) :
    x.pass pick = (x.renderOn, false) := by
  unfold PpuIo.pass
  rw [hm]
  exact if_neg h

theorem PpuIo.pass_hblank_end (hm : x.ppu.mode = .hblank) (h : 204 ≤ x.ppu.acc) :
    x.pass pick = (x.endHblank, true) := by
  unfold PpuIo.pass
  rw [hm]
  exact if_pos h

theorem PpuIo.pass_hblank_wait (hm : x.ppu.mode = .hblank) (h : x.ppu.acc < 204) : x.pass pick = (x, false) := by
  unfold PpuIo.pass
  rw [hm]
  exact if_neg (Nat.not_le.2 h)

theorem PpuIo.pass_vblank_end (hm : x.ppu.mode = .vblank) (h : 456 ≤ x.ppu.acc) :
    x.pass pick = (x.endVblankLine, true) := by
  unfold PpuIo.pass
  rw [hm]
  exact if_pos h

theorem PpuIo.pass_vblank_wait (hm : x.ppu.mode = .vblank) (h : x.ppu.acc < 456) : x.pass pick = (x, false) := by
  unfold PpuIo.pass
  rw [hm]
  exact if_neg (Nat.not_le.2 h)

/-- A pass that moved is followed by another. -/
theorem PpuIo.passes_of_moved {y : PpuIo} (h : x.pass pick = (y, true)) (fuel : Nat) :
    PpuIo.passes pick (fuel + 1) x = PpuIo.passes pick fuel y := by
  rw [PpuIo.passes, h, if_pos rfl]

/-- A pass that did not move is the last. -/
theorem PpuIo.passes_of_unmoved {y : PpuIo} (h : x.pass pick = (y, false)) (fuel : Nat) :
    PpuIo.passes pick (fuel + 1) x = y := by
  rw [PpuIo.passes, h, if_neg Bool.false_ne_true]

/-- The line and mode that follow H-blank. -/
theorem PpuIo.endHblank_frame : x.endHblank.ppu = { x.ppu with
    acc := x.ppu.acc - 204, ly := x.ppu.ly + 1, mode := if x.ppu.ly + 1 = 144 then .vblank else .oam
    coin := x.endHblank.ppu.coin, statLine := x.endHblank.ppu.statLine } := by
  unfold PpuIo.endHblank
  dsimp only
  split_ifs <;> rfl

/-- The line and mode that follow a line of V-blank. -/
theorem PpuIo.endVblankLine_frame : x.endVblankLine.ppu = { x.ppu with
    acc := x.ppu.acc - 456, ly := if x.ppu.ly + 1 = 154 then 0 else x.ppu.ly + 1
    mode := if x.ppu.ly + 1 = 154 then .oam else x.ppu.mode
    coin := x.endVblankLine.ppu.coin, statLine := x.endVblankLine.ppu.statLine } := by
  unfold PpuIo.endVblankLine
  dsimp only
  split_ifs <;> rfl

/-! ## No transition is left undone -/

/-- No transition of rule R435 is due. -/
def Ppu.Settled (y : Ppu) : Prop :=
  (y.mode = .oam → y.acc < 80) ∧ (y.mode = .transfer → y.col < 160 → y.acc = 0) ∧
    (y.mode = .transfer → y.col ≠ 160) ∧ (y.mode = .hblank → y.acc < 204) ∧ (y.mode = .vblank → y.acc < 456)

/-- What every moving pass lowers: the end of pixel transfer may cost no cycle, but leads to H-blank. -/
def PpuIo.work (x : PpuIo) : Nat := x.ppu.acc + if x.ppu.mode = .transfer then 1 else 0

/-- A pass either moves and lowers the work left, or is the last and leaves nothing due. -/
theorem PpuIo.pass_cases (x : PpuIo) : ∃ y, x.pass pick = (y, true) ∧ y.work < x.work ∨
    x.pass pick = (y, false) ∧ y.ppu.Settled := by
  unfold PpuIo.work Ppu.Settled
  cases hm : x.ppu.mode with
  | oam =>
    rcases Nat.lt_or_ge x.ppu.acc 80 with h | h
    · exact ⟨_, .inr ⟨x.pass_oam_wait pick hm h, by simp [hm, h]⟩⟩
    · refine ⟨_, .inl ⟨x.pass_oam_end pick hm h, ?_⟩⟩
      show x.ppu.acc - 80 + 1 < x.ppu.acc + 0
      omega
  | transfer =>
    have hmode : x.ppu.renderColumns.mode = .transfer := x.ppu.renderColumns_frame.mode_eq.trans hm
    have hcol := x.ppu.renderColumns_col
    have hacc := x.ppu.renderColumns_acc
    by_cases h : x.ppu.renderColumns.col = 160
    · refine ⟨_, .inl ⟨x.pass_transfer_end pick hm h, ?_⟩⟩
      show x.ppu.renderColumns.acc + 0 < x.ppu.acc + 1
      omega
    · refine ⟨_, .inr ⟨x.pass_transfer_wait pick hm h, ?_⟩⟩
      unfold PpuIo.renderOn
      simp only [hmode, reduceCtorEq, false_imp_iff, true_and, and_true, forall_const, ne_eq]
      exact ⟨fun hlt => by omega, h⟩
  | hblank =>
    rcases Nat.lt_or_ge x.ppu.acc 204 with h | h
    · exact ⟨_, .inr ⟨x.pass_hblank_wait pick hm h, by simp [hm, h]⟩⟩
    · refine ⟨_, .inl ⟨x.pass_hblank_end pick hm h, ?_⟩⟩
      have hacc : x.endHblank.ppu.acc = x.ppu.acc - 204 := by rw [x.endHblank_frame]
      have hmode : x.endHblank.ppu.mode ≠ .transfer := by
        rw [x.endHblank_frame]
        dsimp only
        split_ifs <;> decide
      rw [if_neg hmode, if_neg (by decide), hacc]
      omega
  | vblank =>
    rcases Nat.lt_or_ge x.ppu.acc 456 with h | h
    · exact ⟨_, .inr ⟨x.pass_vblank_wait pick hm h, by simp [hm, h]⟩⟩
    · refine ⟨_, .inl ⟨x.pass_vblank_end pick hm h, ?_⟩⟩
      have hacc : x.endVblankLine.ppu.acc = x.ppu.acc - 456 := by rw [x.endVblankLine_frame]
      have hmode : x.endVblankLine.ppu.mode ≠ .transfer := by
        rw [x.endVblankLine_frame]
        dsimp only
        rw [hm]
        split_ifs <;> decide
      rw [if_neg hmode, if_neg (by decide), hacc]
      omega

theorem PpuIo.passes_settled : ∀ (fuel : Nat) (x : PpuIo), x.work < fuel → (PpuIo.passes pick fuel x).ppu.Settled
  | 0, _, h => absurd h (Nat.not_lt_zero _)
  | fuel + 1, x, h => by
    obtain ⟨y, ⟨hpass, hwork⟩ | ⟨hpass, hsettled⟩⟩ := x.pass_cases pick
    · rw [x.passes_of_moved pick hpass]
      exact PpuIo.passes_settled fuel y (by omega)
    · rwa [x.passes_of_unmoved pick hpass]

/-! ## The coincidence flag is never stale -/

/-- The coincidence flag says whether LY is `v`, which LYC holds (rule R450). -/
def Ppu.Compares (p : Ppu) (v : Byte) : Prop := p.lyc = v ∧ p.coin = decide (p.ly = p.lyc.toNat)

theorem PpuIo.pass_compares {v : Byte} (h : x.ppu.Compares v) : (x.pass pick).1.ppu.Compares v := by
  unfold PpuIo.pass
  cases hm : x.ppu.mode with
  | oam =>
    dsimp only
    split_ifs <;> exact h
  | transfer =>
    have hr : x.ppu.renderColumns.Compares v := by
      rw [x.ppu.renderColumns_frame]
      exact h
    dsimp only
    split_ifs <;> exact hr
  | hblank =>
    dsimp only
    split_ifs
    · unfold PpuIo.endHblank
      dsimp only
      split_ifs <;> exact ⟨h.1, rfl⟩
    · exact h
  | vblank =>
    dsimp only
    split_ifs
    · unfold PpuIo.endVblankLine
      dsimp only
      split_ifs <;> exact ⟨h.1, rfl⟩
    · exact h

theorem PpuIo.passes_compares {v : Byte} : ∀ (fuel : Nat) (x : PpuIo), x.ppu.Compares v →
    (PpuIo.passes pick fuel x).ppu.Compares v
  | 0, _, h => h
  | fuel + 1, x, h => by
    rw [PpuIo.passes]
    split_ifs
    · exact PpuIo.passes_compares fuel _ (x.pass_compares pick h)
    · exact x.pass_compares pick h

theorem PpuIo.advance_settled (hon : x.ppu.lcdc.getLsbD 7 = true) (n : Nat) : (x.advance pick n).ppu.Settled := by
  rw [x.advance_of_on pick hon]
  refine PpuIo.passes_settled pick _ _ ?_
  show x.ppu.acc + n + (if _ then 1 else 0) < _
  split_ifs <;> omega

theorem PpuIo.advance_compares (hon : x.ppu.lcdc.getLsbD 7 = true) (n : Nat) :
    (x.advance pick n).ppu.Compares x.ppu.lyc := by
  rw [x.advance_of_on pick hon]
  exact PpuIo.passes_compares pick _ _ ⟨rfl, rfl⟩

end

end Sys2Proof.Machine
end

section
/-! SUPPORT. Pixel transfer column by column: what any number of columns leave in the layers, and what the end of the
line leaves in the frame (rules R461 to R468). -/

namespace Sys2Proof.Machine

/-! ## The frame -/

theorem mergeDots_some (above below win : Dot) (bg : Shade) :
    mergeDots above below win (some bg) = shownPixel above below win bg := by
  cases above with
  | some v => rfl
  | none => cases below <;> simp [mergeDots, shownPixel]

theorem Ppu.composeLine_pixel_of_ne (p : Ppu) {r : Nat} (hr : r ≠ p.ly) (c : Nat) :
    p.composeLine.frame.pixel r c = p.frame.pixel r c := by
  unfold Frame.pixel Ppu.composeLine
  rw [Vector.getElem?_setIfInBounds_ne hr.symm]

theorem Ppu.composeLine_pixel (p : Ppu) (hy : p.ly < 144) {c : Nat} (hc : c < 160) {bg : Shade}
    (hbg : p.bg.get p.ly c = some bg) : p.composeLine.frame.pixel p.ly c =
      some (shownPixel (p.sprAbove.get p.ly c) (p.sprBelow.get p.ly c) (p.win.get p.ly c) bg) := by
  unfold Frame.pixel Ppu.composeLine
  rw [Vector.getElem?_setIfInBounds_self_of_lt hy, Option.bind_some, Vector.getElem?_eq_getElem hc, Vector.getElem_ofFn,
    hbg, mergeDots_some]

/-! ## Columns -/

theorem spriteLayerPixel_append (p : Ppu) (below : Bool) (q q' : List Nat) (c : Nat) :
    spriteLayerPixel p below (q ++ q') c = (spriteLayerPixel p below q c).or (spriteLayerPixel p below q' c) :=
  List.findSome?_append

/-- `q` is `p` after `k` columns of pixel transfer that drew the sprites `drawn`. -/
structure Ppu.Rendered (p q : Ppu) (k : Nat) (drawn : List Nat) : Prop where
  frame : p.TransferFrame q
  col : q.col = p.col + k
  acc : q.acc = p.acc - k
  nextSprite : q.nextSprite = p.nextSprite + drawn.length
  bg : ∀ r c, q.bg.get r c = if r = p.ly ∧ p.col ≤ c ∧ c < p.col + k then some (bgPixel p c) else p.bg.get r c
  win : ∀ r c, q.win.get r c = if r = p.ly ∧ p.col ≤ c ∧ c < p.col + k then winPixel p c else p.win.get r c
  above : ∀ r c, c < 160 → q.sprAbove.get r c =
    if r = p.ly then (p.sprAbove.get r c).or (spriteLayerPixel p false drawn c) else p.sprAbove.get r c
  below : ∀ r c, c < 160 → q.sprBelow.get r c =
    if r = p.ly then (p.sprBelow.get r c).or (spriteLayerPixel p true drawn c) else p.sprBelow.get r c

theorem Ppu.drawNext_get (p : Ppu) (hy : p.ly < 144) (r : Nat) {c : Nat} (hc : c < 160) :
    (p.drawNext.sprAbove.get r c = if r = p.ly then
      (p.sprAbove.get r c).or (spriteLayerPixel p false p.nextDrawn.toList c) else p.sprAbove.get r c) ∧
    (p.drawNext.sprBelow.get r c = if r = p.ly then
      (p.sprBelow.get r c).or (spriteLayerPixel p true p.nextDrawn.toList c) else p.sprBelow.get r c) := by
  cases h : p.nextDrawn with
  | none =>
    rw [p.drawNext_of_none h]
    simp [spriteLayerPixel]
  | some i =>
    have hone : ∀ below,
        spriteLayerPixel p below [i] c = if spriteIsBelow p i = below then spritePixel p i c else none :=
      fun _ => List.findSome?_singleton
    rw [p.drawNext_of_some h, Option.toList_some, hone, hone]
    exact p.drawSprite_get i hy r hc

section
variable {p q : Ppu} (h : p.TransferFrame q) (c : Nat)
include h

theorem Ppu.TransferFrame.bgPixel_eq : bgPixel q c = bgPixel p c := by
  rw [h]
  rfl

theorem Ppu.TransferFrame.winPixel_eq : winPixel q c = winPixel p c := by
  rw [h]
  rfl

theorem Ppu.TransferFrame.spriteLayerPixel_eq (below : Bool) (drawn : List Nat) :
    spriteLayerPixel q below drawn c = spriteLayerPixel p below drawn c := by
  rw [h]
  rfl

end

section
variable (p : Ppu)

theorem Ppu.drawNext_transferFrame : p.TransferFrame p.drawNext := by
  unfold Ppu.TransferFrame
  rw [p.drawNext_frame]

theorem Ppu.renderColumn_bg : p.renderColumn.bg = p.bg.set p.ly p.col (some (bgPixel p p.col)) := by
  have hbg : p.drawNext.bg = p.bg := by rw [p.drawNext_frame]
  rw [← p.drawNext_transferFrame.bgPixel_eq, ← Ppu.bgShade_eq, ← hbg, ← p.drawNext_transferFrame.ly_eq]
  rfl

theorem Ppu.renderColumn_win : p.renderColumn.win = p.win.set p.ly p.col (winPixel p p.col) := by
  have hwin : p.drawNext.win = p.win := by rw [p.drawNext_frame]
  rw [← p.drawNext_transferFrame.winPixel_eq, ← Ppu.winDot_eq, ← hwin, ← p.drawNext_transferFrame.ly_eq]
  rfl

theorem Ppu.renderColumn_nextSprite : p.renderColumn.nextSprite = p.nextSprite + p.nextDrawn.toList.length := by
  have hnext : p.drawNext.nextSprite = p.nextSprite + p.nextDrawn.toList.length := by rw [p.drawNext_frame]
  exact hnext

theorem Ppu.renderColumn_sprAbove : p.renderColumn.sprAbove = p.drawNext.sprAbove := rfl

theorem Ppu.renderColumn_sprBelow : p.renderColumn.sprBelow = p.drawNext.sprBelow := rfl

theorem Ppu.rendered_column (hy : p.ly < 144) (hcol : p.col < 160) :
    p.Rendered p.renderColumn 1 p.nextDrawn.toList where
  frame := p.renderColumn_frame
  col := rfl
  acc := rfl
  nextSprite := p.renderColumn_nextSprite
  bg r c := by
    have hat : p.col ≤ c ∧ c < p.col + 1 ↔ c = p.col := by omega
    rw [p.renderColumn_bg, Layer.get_set _ _ hy hcol]
    simp only [hat]
    split_ifs with h
    · rw [h.2]
    · rfl
  win r c := by
    have hat : p.col ≤ c ∧ c < p.col + 1 ↔ c = p.col := by omega
    rw [p.renderColumn_win, Layer.get_set _ _ hy hcol]
    simp only [hat]
    split_ifs with h
    · rw [h.2]
    · rfl
  above r c hc := by
    rw [p.renderColumn_sprAbove]
    exact (p.drawNext_get hy r hc).1
  below r c hc := by
    rw [p.renderColumn_sprBelow]
    exact (p.drawNext_get hy r hc).2

theorem Ppu.Rendered.refl : p.Rendered p 0 [] where
  frame := rfl
  col := rfl
  acc := rfl
  nextSprite := rfl
  bg r c := by rw [if_neg (by omega)]
  win r c := by rw [if_neg (by omega)]
  above r c _ := by simp [spriteLayerPixel]
  below r c _ := by simp [spriteLayerPixel]

end

theorem Ppu.Rendered.trans {p q z : Ppu} {j k : Nat} {drawn more : List Nat} (hq : p.Rendered q j drawn)
    (hz : q.Rendered z k more) : p.Rendered z (j + k) (drawn ++ more) where
  frame := hq.frame.trans hz.frame
  col := by rw [hz.col, hq.col]; omega
  acc := by rw [hz.acc, hq.acc]; omega
  nextSprite := by rw [hz.nextSprite, hq.nextSprite, List.length_append]; omega
  bg r c := by
    rw [hz.bg, hq.bg, hq.frame.bgPixel_eq, hq.frame.ly_eq, hq.col]
    rw [← ite_or]
    exact if_congr (by omega) rfl rfl
  win r c := by
    rw [hz.win, hq.win, hq.frame.winPixel_eq, hq.frame.ly_eq, hq.col]
    rw [← ite_or]
    exact if_congr (by omega) rfl rfl
  above r c hc := by
    rw [hz.above r c hc, hq.above r c hc, hq.frame.spriteLayerPixel_eq, hq.frame.ly_eq, spriteLayerPixel_append]
    split_ifs
    · exact Option.or_assoc
    · rfl
  below r c hc := by
    rw [hz.below r c hc, hq.below r c hc, hq.frame.spriteLayerPixel_eq, hq.frame.ly_eq, spriteLayerPixel_append]
    split_ifs
    · exact Option.or_assoc
    · rfl

/-- After `k` columns of a line the first of every 16 have each drawn a sprite, as long as there were any. -/
theorem Ppu.rendered_columns {p : Ppu} (hy : p.ly < 144) (hcol : p.col = 0) (hnext : p.nextSprite = 0) :
    ∀ k ≤ 160, p.Rendered (Ppu.renderColumn^[k] p) k (p.queue.take ((k + 15) / 16))
  | 0, _ => Ppu.Rendered.refl p
  | k + 1, hk => by
    have ih := Ppu.rendered_columns hy hcol hnext k (by omega)
    rw [Function.iterate_succ_apply']
    generalize Ppu.renderColumn^[k] p = q at ih ⊢
    have hqcol := ih.col
    have hdrawn : p.queue.take ((k + 15) / 16) ++ q.nextDrawn.toList = p.queue.take ((k + 1 + 15) / 16) := by
      unfold Ppu.nextDrawn
      rw [ih.frame.queue_eq, hqcol, ih.nextSprite, hcol, hnext, List.length_take, Nat.zero_add, Nat.zero_add]
      by_cases hmod : k % 16 = 0
      · have hstep : (k + 1 + 15) / 16 = (k + 15) / 16 + 1 := by omega
        rw [if_pos hmod, hstep, List.take_add_one]
        rcases Nat.le_total ((k + 15) / 16) p.queue.length with h | h
        · rw [Nat.min_eq_left h]
        · rw [Nat.min_eq_right h, List.getElem?_eq_none h, List.getElem?_eq_none le_rfl]
      · have hstep : (k + 1 + 15) / 16 = (k + 15) / 16 := by omega
        rw [if_neg hmod, hstep]
        exact List.append_nil _
    rw [← hdrawn]
    exact ih.trans (q.rendered_column (by rwa [ih.frame.ly_eq]) (by omega))

end Sys2Proof.Machine
end

section
/-! SUPPORT. What an advance of the display does from the states the display's statements start from. -/

namespace Sys2Proof.Machine

/-! ## The display as charged, and at the end of OAM search -/

section
variable {p q : Ppu} (hoam : q.oam = p.oam)
include hoam

theorem Ppu.sprite_congr (i k : Nat) : q.sprite i k = p.sprite i k := by
  unfold Ppu.sprite
  rw [hoam]

theorem Ppu.insertByX_congr (i : Nat) : ∀ l : List Nat, q.insertByX i l = p.insertByX i l
  | [] => rfl
  | j :: rest => by
    rw [Ppu.insertByX, Ppu.insertByX, Ppu.sprite_congr hoam, Ppu.sprite_congr hoam, Ppu.insertByX_congr i rest]

theorem Ppu.sortByX_congr (l : List Nat) : q.sortByX l = p.sortByX l :=
  congrArg (fun insert => l.foldr insert []) (funext₂ (Ppu.insertByX_congr hoam))

/-- The sprite selection reads OAM, LCDC and LY. -/
theorem Ppu.selection_congr (hlcdc : q.lcdc = p.lcdc) (hly : q.ly = p.ly) (pick : SpritePick) :
    q.selection pick = p.selection pick := by
  have hhits : q.spriteHits = p.spriteHits := by
    unfold Ppu.spriteHits Ppu.spriteHeight
    rw [hlcdc, hly]
    simp only [Ppu.sprite_congr hoam]
  unfold Ppu.selection
  rw [hlcdc, hhits, Ppu.sortByX_congr hoam, Ppu.sortByX_congr hoam]

end

section
variable (x : PpuIo) (pick : SpritePick) (n : Nat)

theorem PpuIo.charge_frame : (x.charge n).ppu = { x.ppu with
    acc := x.ppu.acc + n, coin := (x.charge n).ppu.coin, statLine := (x.charge n).ppu.statLine } := rfl

theorem PpuIo.searched_frame : ((x.charge n).enterTransfer pick).ppu = { x.ppu with
    mode := .transfer, acc := x.ppu.acc + n - 80, col := 0, queue := x.ppu.selection pick, nextSprite := 0
    coin := ((x.charge n).enterTransfer pick).ppu.coin, statLine := ((x.charge n).enterTransfer pick).ppu.statLine
    sprAbove := x.ppu.sprAbove.clearRow x.ppu.ly, sprBelow := x.ppu.sprBelow.clearRow x.ppu.ly } := by
  have hqueue : ((x.charge n).enterTransfer pick).ppu.queue = x.ppu.selection pick :=
    Ppu.selection_congr (p := x.ppu) (q := { (x.charge n).ppu with acc := x.ppu.acc + n - 80 }) rfl rfl rfl pick
  rw [← hqueue]
  rfl

theorem PpuIo.searched_renderColumns_col :
    ((x.charge n).enterTransfer pick).ppu.renderColumns.col = min (x.ppu.acc + n - 80) 160 :=
  (Ppu.renderColumns_col _).trans (Nat.zero_add _)

/-- The advance that ends OAM search and stops within pixel transfer. -/
theorem PpuIo.advance_into_transfer (hon : x.ppu.lcdc.getLsbD 7 = true) (hm : x.ppu.mode = .oam)
    (hlow : 80 ≤ x.ppu.acc + n) (hhigh : x.ppu.acc + n < 240) :
    x.advance pick n = ((x.charge n).enterTransfer pick).renderOn := by
  have hcol := x.searched_renderColumns_col pick n
  rw [x.advance_of_on pick hon, PpuIo.passes_of_moved pick ((x.charge n).pass_oam_end pick hm hlow),
    PpuIo.passes_of_unmoved pick (PpuIo.pass_transfer_wait pick rfl (by omega))]

/-- One cycle of pixel transfer renders one column. -/
theorem PpuIo.charged_renderColumns (hacc : x.ppu.acc = 0) (hcol : x.ppu.col < 160) :
    (x.charge 1).ppu.renderColumns = (x.charge 1).ppu.renderColumn := by
  have hone : min (x.charge 1).ppu.acc (160 - (x.charge 1).ppu.col) = 1 := by
    show min (x.ppu.acc + 1) (160 - x.ppu.col) = 1
    omega
  unfold Ppu.renderColumns
  rw [hone]
  rfl

section
variable (hon : x.ppu.lcdc.getLsbD 7 = true) (hm : x.ppu.mode = .transfer) (hacc : x.ppu.acc = 0)
include hon hm hacc

/-- One cycle of pixel transfer before column 159. -/
theorem PpuIo.advance_column (hcol : x.ppu.col < 159) :
    x.advance pick 1 = (x.charge 1).renderOn := by
  have hcols := x.charged_renderColumns hacc (by omega)
  have hnext : (x.charge 1).ppu.renderColumns.col ≠ 160 := by
    rw [hcols]
    show x.ppu.col + 1 ≠ 160
    omega
  rw [x.advance_of_on pick hon, PpuIo.passes_of_unmoved pick ((x.charge 1).pass_transfer_wait pick hm hnext)]

/-- The cycle of column 159 ends the line. -/
theorem PpuIo.advance_last_column (hcol : x.ppu.col = 159) : x.advance pick 1 = (x.charge 1).enterHblank := by
  have hcols := x.charged_renderColumns hacc (by omega)
  have hnext : (x.charge 1).ppu.renderColumns.col = 160 := by
    rw [hcols]
    show x.ppu.col + 1 = 160
    omega
  have hwait : (x.charge 1).enterHblank.ppu.acc < 204 := by
    show (x.charge 1).ppu.renderColumns.acc < 204
    rw [hcols]
    show x.ppu.acc + 1 - 1 < 204
    omega
  rw [x.advance_of_on pick hon, PpuIo.passes_of_moved pick ((x.charge 1).pass_transfer_end pick hm hnext),
    PpuIo.passes_of_unmoved pick (PpuIo.pass_hblank_wait pick rfl hwait)]

end

end

/-! ## O41 -/

/-- The end of OAM search, where it falls on the last charged cycle. -/
theorem PpuIo.advance_selects (x : PpuIo) (pick : SpritePick) (n : Nat) (hon : x.ppu.lcdc.getLsbD 7 = true)
    (hm : x.ppu.mode = .oam) (hend : x.ppu.acc + n = 80) : (x.advance pick n).ppu = { x.ppu with
      mode := .transfer, acc := 0, col := 0, queue := x.ppu.selection pick, nextSprite := 0
      coin := (x.advance pick n).ppu.coin, statLine := (x.advance pick n).ppu.statLine
      sprAbove := x.ppu.sprAbove.clearRow x.ppu.ly, sprBelow := x.ppu.sprBelow.clearRow x.ppu.ly } := by
  have hacc : ((x.charge n).enterTransfer pick).ppu.acc = 0 := by
    show x.ppu.acc + n - 80 = 0
    omega
  have hnone : ((x.charge n).enterTransfer pick).ppu.renderColumns = ((x.charge n).enterTransfer pick).ppu := by
    unfold Ppu.renderColumns
    rw [hacc, Nat.zero_min]
    rfl
  have hadv : (x.advance pick n).ppu = ((x.charge n).enterTransfer pick).ppu := by
    rw [x.advance_into_transfer pick n hon hm (by omega) (by omega)]
    exact hnone
  have hframe := x.searched_frame pick n
  rw [hend] at hframe
  rw [hadv]
  exact hframe

/-- A column's sprite on its layer. -/
theorem spriteLayerPixel_toList (p : Ppu) (below : Bool) (drawn : Option Nat) (c : Nat) :
    spriteLayerPixel p below drawn.toList c =
      drawn.bind fun i => if spriteIsBelow p i = below then spritePixel p i c else none := by
  cases drawn with
  | none => rfl
  | some i => exact List.findSome?_singleton

section
variable {x : PpuIo} (hcol : x.ppu.col < 160)
include hcol

/-- One charged column, against the display before the charge. -/
theorem PpuIo.charged_column_frame (hy : x.ppu.ly < 144) : (x.charge 1).ppu.renderColumn = { x.ppu with
    col := x.ppu.col + 1, nextSprite := if x.ppu.nextDrawn.isSome then x.ppu.nextSprite + 1 else x.ppu.nextSprite
    bg := (x.charge 1).ppu.renderColumn.bg, win := (x.charge 1).ppu.renderColumn.win
    sprAbove := (x.charge 1).ppu.renderColumn.sprAbove, sprBelow := (x.charge 1).ppu.renderColumn.sprBelow
    coin := (x.charge 1).ppu.renderColumn.coin, statLine := (x.charge 1).ppu.renderColumn.statLine } := by
  have hr := (x.charge 1).ppu.rendered_column hy hcol
  have hcoin : (x.charge 1).ppu.renderColumn.coin = (x.charge 1).ppu.coin := hr.frame.coin_eq
  have hstat : (x.charge 1).ppu.renderColumn.statLine = (x.charge 1).ppu.statLine := hr.frame.statLine_eq
  have hframe : (x.charge 1).ppu.renderColumn = _ := hr.frame
  rw [hr.col, hr.acc, hr.nextSprite] at hframe
  have hcount : x.ppu.nextSprite + x.ppu.nextDrawn.toList.length =
      if x.ppu.nextDrawn.isSome then x.ppu.nextSprite + 1 else x.ppu.nextSprite := by
    cases x.ppu.nextDrawn <;> rfl
  rw [hcoin, hstat, ← hcount]
  exact hframe

/-- One cycle of pixel transfer: its column, and at the end of the line the frame's row and H-blank. -/
theorem PpuIo.advance_one (pick : SpritePick) (hon : x.ppu.lcdc.getLsbD 7 = true) (hm : x.ppu.mode = .transfer)
    (hacc : x.ppu.acc = 0) : ∃ mode frame statLine,
    (x.advance pick 1).ppu =
      { (x.charge 1).ppu.renderColumn with mode := mode, frame := frame, statLine := statLine } ∧
    (x.ppu.col < 159 → mode = .transfer ∧ frame = x.ppu.frame) ∧
    (x.ppu.col = 159 → mode = .hblank ∧ frame = (x.charge 1).ppu.renderColumn.composeLine.frame) := by
  have hcols := x.charged_renderColumns hacc hcol
  have hframe := (x.charge 1).ppu.renderColumn_frame
  rcases Nat.lt_or_ge x.ppu.col 159 with h | h
  · refine ⟨_, _, (x.charge 1).ppu.renderColumn.statLine, ?_,
      fun _ => ⟨hframe.mode_eq.trans hm, hframe.frame_eq⟩, fun e => by omega⟩
    rw [x.advance_column pick hon hm hacc h]
    exact hcols
  · refine ⟨_, _, (x.charge 1).enterHblank.ppu.statLine, ?_, fun e => by omega, fun _ => ⟨rfl, rfl⟩⟩
    rw [x.advance_last_column pick hon hm hacc (by omega), ← hcols]
    rfl

end

/-- Settles O41: the advance is the passes of the charged display; the passes run out of work; and the two passes that
start and end pixel transfer are followed. -/
theorem displayAdvanceRendersAndSettles : Obligations.DisplayAdvanceRendersAndSettles := by
  unfold Obligations.DisplayAdvanceRendersAndSettles
  intro pick x n hon p y
  obtain ⟨hlyc, hcoin⟩ := x.advance_compares pick hon n
  refine ⟨x.advance_settled pick hon n, ⟨hlyc, hcoin⟩, fun hm hy hend => ?_, fun hm hy hacc hcol hn => ?_⟩
  · have hframe := x.advance_selects pick n hon hm hend
    have habove : y.sprAbove = p.sprAbove.clearRow p.ly := congrArg Ppu.sprAbove hframe
    have hbelow : y.sprBelow = p.sprBelow.clearRow p.ly := congrArg Ppu.sprBelow hframe
    rw [habove, hbelow]
    exact ⟨Layer.get_clearRow _ hy, Layer.get_clearRow _ hy, hframe⟩
  · subst hn
    obtain ⟨mode, frame, statLine, hadv, hwithin, hlast⟩ := PpuIo.advance_one hcol pick hon hm hacc
    have hr := (x.charge 1).ppu.rendered_column hy hcol
    have hcolumn := PpuIo.charged_column_frame hcol hy
    generalize (x.charge 1).ppu.renderColumn = z at hadv hlast hr hcolumn
    have hyz : y = { z with mode := mode, frame := frame, statLine := statLine } := hadv
    have hbg : y.bg = z.bg := by rw [hyz]
    have hwin : y.win = z.win := by rw [hyz]
    have habove : y.sprAbove = z.sprAbove := by rw [hyz]
    have hbelow : y.sprBelow = z.sprBelow := by rw [hyz]
    have hmode : y.mode = mode := by rw [hyz]
    have hpicture : y.frame = frame := by rw [hyz]
    have hflag : y.coin = z.coin := by rw [hyz]
    have hline : y.statLine = statLine := by rw [hyz]
    have hhere : ∀ r c, r = p.ly ∧ p.col ≤ c ∧ c < p.col + 1 ↔ r = p.ly ∧ c = p.col := fun r c => by omega
    have hlayer : ∀ below c, spriteLayerPixel (x.charge 1).ppu below (x.charge 1).ppu.nextDrawn.toList c = _ :=
      fun below c => spriteLayerPixel_toList _ below _ c
    have hly : z.ly = p.ly := hr.frame.ly_eq
    rw [hbg, hwin, habove, hbelow, hmode, hpicture, hflag, hline]
    refine ⟨fun r c => (hr.bg r c).trans (if_congr (hhere r c) rfl rfl),
      fun r c => (hr.win r c).trans (if_congr (hhere r c) rfl rfl), fun r c hc => ⟨?_, ?_⟩, hwithin,
      fun hend => ⟨(hlast hend).1, ?_, ?_⟩, ?_⟩
    · rw [hr.above r c hc, hlayer]
      rfl
    · rw [hr.below r c hc, hlayer]
      rfl
    · rw [(hlast hend).2, ← hly]
      exact fun r c hne => (z.composeLine_pixel_of_ne hne c).trans (congrArg (·.pixel r c) hr.frame.frame_eq)
    · rw [(hlast hend).2, ← hly]
      exact fun c b hc => z.composeLine_pixel (hly ▸ hy) hc
    · exact hyz.trans (congrArg (fun w : Ppu => { w with mode := mode, frame := frame, statLine := statLine }) hcolumn)

end Sys2Proof.Machine
end

section
/-! SUPPORT. A whole line of the display: the passes an advance makes from its start, and the pixels a visible line
leaves. -/

namespace Sys2Proof.Machine

/-! ## The V-blank request is made by the end of line 143 alone -/

section
variable (x : PpuIo) (pick : SpritePick)

/-- The status interrupt is not interrupt 0. -/
theorem PpuIo.updateStat_vblankBit : x.updateStat.irq.getLsbD 0 = x.irq.getLsbD 0 := by
  unfold PpuIo.updateStat
  dsimp only
  split_ifs
  · rw [getLsbD_requestIrq _ (by decide)]
    exact Bool.or_false _
  · rfl

theorem PpuIo.charge_vblankBit (n : Nat) : (x.charge n).irq.getLsbD 0 = x.irq.getLsbD 0 := PpuIo.updateStat_vblankBit _

theorem PpuIo.enterTransfer_vblankBit : (x.enterTransfer pick).irq.getLsbD 0 = x.irq.getLsbD 0 :=
  PpuIo.updateStat_vblankBit _

theorem PpuIo.enterHblank_vblankBit : x.enterHblank.irq.getLsbD 0 = x.irq.getLsbD 0 := PpuIo.updateStat_vblankBit _

theorem PpuIo.endVblankLine_vblankBit : x.endVblankLine.irq.getLsbD 0 = x.irq.getLsbD 0 := PpuIo.updateStat_vblankBit _

/-- After line 143: V-blank's request and its frame. -/
theorem PpuIo.endHblank_of_last (h : x.ppu.ly + 1 = 144) : x.endHblank.irq.getLsbD 0 = true ∧
    x.endHblank.frames = x.frames ++ [x.ppu.frame] := by
  unfold PpuIo.endHblank
  dsimp only
  rw [if_pos h]
  refine ⟨?_, rfl⟩
  rw [PpuIo.updateStat_vblankBit]
  exact (getLsbD_requestIrq _ (by decide)).trans (Bool.or_true _)

theorem PpuIo.endHblank_frames (h : x.ppu.ly + 1 ≠ 144) : x.endHblank.frames = x.frames := by
  unfold PpuIo.endHblank
  dsimp only
  rw [if_neg h]
  rfl

end

/-- Of the rendered line H-blank changes the frame, the mode and the status line. -/
theorem PpuIo.enterHblank_frame (x : PpuIo) : x.enterHblank.ppu = { x.ppu.renderColumns with
    frame := x.ppu.renderColumns.composeLine.frame, mode := .hblank, statLine := x.enterHblank.ppu.statLine } := rfl

/-! ## A line of V-blank -/

section
variable {x : PpuIo} (pick : SpritePick) (hon : x.ppu.lcdc.getLsbD 7 = true) (hm : x.ppu.mode = .vblank)
  (hacc : x.ppu.acc = 0)
include hon hm hacc

theorem PpuIo.advance_vblank {n : Nat} (hn : n < 456) : x.advance pick n = x.charge n := by
  have hwait : (x.charge n).ppu.acc < 456 := by
    show x.ppu.acc + n < 456
    omega
  rw [x.advance_of_on pick hon, PpuIo.passes_of_unmoved pick ((x.charge n).pass_vblank_wait pick hm hwait)]

/-- The end of a line of V-blank, the next line beginning. -/
theorem PpuIo.advance_vblank_line : x.advance pick 456 = (x.charge 456).endVblankLine := by
  have hend : (x.charge 456).ppu.acc = 456 := by
    show x.ppu.acc + 456 = 456
    omega
  have hzero : (x.charge 456).endVblankLine.ppu.acc = 0 := by rw [PpuIo.endVblankLine_frame, hend]
  have hwait : (x.charge 456).endVblankLine.pass pick = ((x.charge 456).endVblankLine, false) := by
    by_cases hlast : x.ppu.ly + 1 = 154
    · refine PpuIo.pass_oam_wait pick ?_ (by omega)
      rw [PpuIo.endVblankLine_frame]
      exact if_pos hlast
    · refine PpuIo.pass_vblank_wait pick ?_ (by omega)
      rw [PpuIo.endVblankLine_frame]
      exact (if_neg hlast).trans hm
  rw [x.advance_of_on pick hon, PpuIo.passes_of_moved pick ((x.charge 456).pass_vblank_end pick hm hend.ge),
    PpuIo.passes_of_unmoved pick hwait]

end

/-! ## A visible line -/

/-- The display `n` cycles into a line, in H-blank. -/
def PpuIo.drawn (x : PpuIo) (pick : SpritePick) (n : Nat) : PpuIo := ((x.charge n).enterTransfer pick).enterHblank

section
variable {x : PpuIo} (pick : SpritePick) (hacc : x.ppu.acc = 0)
include hacc

theorem PpuIo.searched_renderColumns_160 {n : Nat} (hn : 240 ≤ n) :
    ((x.charge n).enterTransfer pick).ppu.renderColumns =
      Ppu.renderColumn^[160] ((x.charge n).enterTransfer pick).ppu := by
  have hall : min ((x.charge n).enterTransfer pick).ppu.acc
      (160 - ((x.charge n).enterTransfer pick).ppu.col) = 160 := by
    show min (x.ppu.acc + n - 80) (160 - 0) = 160
    omega
  unfold Ppu.renderColumns
  rw [hall]

theorem PpuIo.drawn_acc {n : Nat} (hn : 240 ≤ n) : (x.drawn pick n).ppu.acc = n - 240 := by
  have hsearched : ((x.charge n).enterTransfer pick).ppu.acc = x.ppu.acc + n - 80 := rfl
  unfold PpuIo.drawn
  rw [PpuIo.enterHblank_frame]
  dsimp only
  rw [PpuIo.searched_renderColumns_160 pick hacc hn, Ppu.iterate_renderColumn_acc, hsearched]
  omega

end

section
variable {x : PpuIo} (pick : SpritePick) (hon : x.ppu.lcdc.getLsbD 7 = true) (hm : x.ppu.mode = .oam)
  (hacc : x.ppu.acc = 0)
include hon hm hacc

theorem PpuIo.advance_search {n : Nat} (hn : n < 80) : x.advance pick n = x.charge n := by
  have hwait : (x.charge n).ppu.acc < 80 := by
    show x.ppu.acc + n < 80
    omega
  rw [x.advance_of_on pick hon, PpuIo.passes_of_unmoved pick ((x.charge n).pass_oam_wait pick hm hwait)]

theorem PpuIo.passes_drawn {n : Nat} (hn : 240 ≤ n) :
    x.advance pick n = PpuIo.passes pick (n + 1) (x.drawn pick n) := by
  have hlow : 80 ≤ (x.charge n).ppu.acc := by
    show 80 ≤ x.ppu.acc + n
    omega
  have hcol : ((x.charge n).enterTransfer pick).ppu.renderColumns.col = 160 := by
    rw [PpuIo.searched_renderColumns_col]
    omega
  rw [x.advance_of_on pick hon, hacc, Nat.zero_add, PpuIo.passes_of_moved pick ((x.charge n).pass_oam_end pick hm hlow),
    PpuIo.passes_of_moved pick (PpuIo.pass_transfer_end pick rfl hcol)]
  rfl

theorem PpuIo.advance_hblank {n : Nat} (hlow : 240 ≤ n) (hhigh : n < 444) : x.advance pick n = x.drawn pick n := by
  have hleft := PpuIo.drawn_acc pick hacc hlow
  rw [PpuIo.passes_drawn pick hon hm hacc hlow,
    PpuIo.passes_of_unmoved pick (PpuIo.pass_hblank_wait pick rfl (by omega))]

/-- The end of a visible line, the next line or V-blank beginning. -/
theorem PpuIo.advance_line : x.advance pick 444 = (x.drawn pick 444).endHblank := by
  have hleft := PpuIo.drawn_acc (n := 444) pick hacc (by decide)
  have hzero : (x.drawn pick 444).endHblank.ppu.acc = 0 := by rw [PpuIo.endHblank_frame, hleft]
  have hwait : (x.drawn pick 444).endHblank.pass pick = ((x.drawn pick 444).endHblank, false) := by
    by_cases hlast : (x.drawn pick 444).ppu.ly + 1 = 144
    · refine PpuIo.pass_vblank_wait pick ?_ (by omega)
      rw [PpuIo.endHblank_frame]
      exact if_pos hlast
    · refine PpuIo.pass_oam_wait pick ?_ (by omega)
      rw [PpuIo.endHblank_frame]
      exact if_neg hlast
  rw [PpuIo.passes_drawn pick hon hm hacc (by decide),
    PpuIo.passes_of_moved pick (PpuIo.pass_hblank_end pick rfl (by omega)), PpuIo.passes_of_unmoved pick hwait]

end

/-! ## The pixels a visible line leaves -/

/-- The layers and the frame of `y` are those of `p` but for line LY of `p`, which shows the background, the window, the
sprites `q` and their composition. -/
def Ppu.LineShown (p : Ppu) (q : List Nat) (y : Ppu) : Prop :=
  (∀ c, c < 160 →
    let above := spriteLayerPixel p false q c
    let below := spriteLayerPixel p true q c
    y.bg.get p.ly c = some (bgPixel p c) ∧ y.win.get p.ly c = winPixel p c ∧
    y.sprAbove.get p.ly c = above ∧ y.sprBelow.get p.ly c = below ∧
    y.frame.pixel p.ly c = some (shownPixel above below (winPixel p c) (bgPixel p c))) ∧
  (∀ r c, r ≠ p.ly →
    y.bg.get r c = p.bg.get r c ∧ y.win.get r c = p.win.get r c ∧
    y.sprAbove.get r c = p.sprAbove.get r c ∧ y.sprBelow.get r c = p.sprBelow.get r c ∧
    y.frame.pixel r c = p.frame.pixel r c)

/-- The line that follows H-blank leaves the pixels. -/
theorem Ppu.LineShown.endHblank {p : Ppu} {q : List Nat} {x : PpuIo} (h : p.LineShown q x.ppu) :
    p.LineShown q x.endHblank.ppu := by
  rw [x.endHblank_frame]
  exact h

/-- `s` is `p` at the end of its line's OAM search, the sprites `q` selected. -/
def Ppu.Searched (p : Ppu) (q : List Nat) (s : Ppu) : Prop :=
  s = { p with
    mode := .transfer, acc := s.acc, col := 0, queue := q, nextSprite := 0, coin := s.coin, statLine := s.statLine
    sprAbove := p.sprAbove.clearRow p.ly, sprBelow := p.sprBelow.clearRow p.ly }

section
variable {p s z : Ppu} {q : List Nat} (h : p.Searched q s) (hy : p.ly < 144) (hr : s.Rendered z 160 q)
include h hr

theorem Ppu.Searched.bg_get (r c : Nat) :
    z.bg.get r c = if r = p.ly ∧ c < 160 then some (bgPixel p c) else p.bg.get r c := by
  have hpixel : bgPixel s c = bgPixel p c := by rw [h]; rfl
  have hcol : s.col = 0 := by rw [h]
  have hly : s.ly = p.ly := by rw [h]
  have hbg : s.bg = p.bg := by rw [h]
  rw [hr.bg, hpixel, hcol, hly, hbg]
  exact if_congr (by omega) rfl rfl

theorem Ppu.Searched.win_get (r c : Nat) :
    z.win.get r c = if r = p.ly ∧ c < 160 then winPixel p c else p.win.get r c := by
  have hpixel : winPixel s c = winPixel p c := by rw [h]; rfl
  have hcol : s.col = 0 := by rw [h]
  have hly : s.ly = p.ly := by rw [h]
  have hwin : s.win = p.win := by rw [h]
  rw [hr.win, hpixel, hcol, hly, hwin]
  exact if_congr (by omega) rfl rfl

include hy

theorem Ppu.Searched.sprAbove_get (r c : Nat) : z.sprAbove.get r c =
    if r = p.ly ∧ c < 160 then spriteLayerPixel p false q c else p.sprAbove.get r c := by
  rcases Nat.lt_or_ge c 160 with hc | hc
  · have hsprites : spriteLayerPixel s false q c = spriteLayerPixel p false q c := by rw [h]; rfl
    have hly : s.ly = p.ly := by rw [h]
    have hclear : s.sprAbove = p.sprAbove.clearRow p.ly := by rw [h]
    rw [hr.above r c hc, hsprites, hly, hclear, Layer.get_clearRow _ hy]
    simp only [hc, and_true]
    split_ifs
    · exact Option.none_or
    · rfl
  · rw [Layer.get_of_ge _ _ hc, Layer.get_of_ge _ _ hc, if_neg (by omega)]

theorem Ppu.Searched.sprBelow_get (r c : Nat) : z.sprBelow.get r c =
    if r = p.ly ∧ c < 160 then spriteLayerPixel p true q c else p.sprBelow.get r c := by
  rcases Nat.lt_or_ge c 160 with hc | hc
  · have hsprites : spriteLayerPixel s true q c = spriteLayerPixel p true q c := by rw [h]; rfl
    have hly : s.ly = p.ly := by rw [h]
    have hclear : s.sprBelow = p.sprBelow.clearRow p.ly := by rw [h]
    rw [hr.below r c hc, hsprites, hly, hclear, Layer.get_clearRow _ hy]
    simp only [hc, and_true]
    split_ifs
    · exact Option.none_or
    · rfl
  · rw [Layer.get_of_ge _ _ hc, Layer.get_of_ge _ _ hc, if_neg (by omega)]

theorem Ppu.Searched.lineShown (mode : PpuMode) (statLine : Bool) :
    p.LineShown q { z with frame := z.composeLine.frame, mode := mode, statLine := statLine } := by
  have hly : z.ly = p.ly := by rw [hr.frame.ly_eq, h]
  have hframe : z.frame = p.frame := by rw [hr.frame.frame_eq, h]
  have hbg := h.bg_get hr
  have hwin := h.win_get hr
  have habove := h.sprAbove_get hy hr
  have hbelow := h.sprBelow_get hy hr
  constructor
  · intro c hc
    have hhere : p.ly = p.ly ∧ c < 160 := ⟨rfl, hc⟩
    have hpixel := z.composeLine_pixel (hly ▸ hy) hc (hly ▸ (hbg p.ly c).trans (if_pos hhere))
    rw [hly, habove, hbelow, hwin, if_pos hhere, if_pos hhere, if_pos hhere] at hpixel
    exact ⟨(hbg _ c).trans (if_pos hhere), (hwin _ c).trans (if_pos hhere), (habove _ c).trans (if_pos hhere),
      (hbelow _ c).trans (if_pos hhere), hpixel⟩
  · intro r c hne
    have hother : ¬ (r = p.ly ∧ c < 160) := fun h => hne h.1
    exact ⟨(hbg r c).trans (if_neg hother), (hwin r c).trans (if_neg hother), (habove r c).trans (if_neg hother),
      (hbelow r c).trans (if_neg hother), (z.composeLine_pixel_of_ne (hly ▸ hne) c).trans (by rw [hframe])⟩

end

theorem PpuIo.drawn_shown {x : PpuIo} (hy : x.ppu.ly < 144) (hacc : x.ppu.acc = 0) (pick : SpritePick) {n : Nat}
    (hn : 240 ≤ n) : x.ppu.LineShown (x.ppu.selection pick) (x.drawn pick n).ppu := by
  have hs : x.ppu.Searched (x.ppu.selection pick) ((x.charge n).enterTransfer pick).ppu := x.searched_frame pick n
  have hcols := x.searched_renderColumns_160 pick hacc hn
  unfold PpuIo.drawn
  rw [PpuIo.enterHblank_frame, hcols]
  generalize ((x.charge n).enterTransfer pick).ppu = s at hs ⊢
  have hr := Ppu.rendered_columns (p := s) (by rwa [hs]) (by rw [hs]) (by rw [hs]) 160 le_rfl
  have hqueue : s.queue.take 10 = x.ppu.selection pick := by
    rw [hs]
    exact List.take_of_length_le (x.ppu.selection_length pick)
  rw [hqueue] at hr
  exact hs.lineShown hy hr _ _

/-! ## O42 -/

section
variable (x : PpuIo) (pick : SpritePick) (n : Nat)

theorem PpuIo.drawn_mode : (x.drawn pick n).ppu.mode = .hblank := by
  unfold PpuIo.drawn
  rw [PpuIo.enterHblank_frame]

theorem PpuIo.drawn_ly : (x.drawn pick n).ppu.ly = x.ppu.ly := by
  unfold PpuIo.drawn
  rw [PpuIo.enterHblank_frame]
  exact (Ppu.renderColumns_frame _).ly_eq

theorem PpuIo.enterTransfer_frames : (x.enterTransfer pick).frames = x.frames := rfl

theorem PpuIo.enterHblank_frames : x.enterHblank.frames = x.frames := rfl

theorem PpuIo.drawn_frames : (x.drawn pick n).frames = x.frames :=
  (PpuIo.enterHblank_frames _).trans (PpuIo.enterTransfer_frames _ pick)

theorem PpuIo.searched_vblankBit : ((x.charge n).enterTransfer pick).irq.getLsbD 0 = x.irq.getLsbD 0 :=
  ((x.charge n).enterTransfer_vblankBit pick).trans (x.charge_vblankBit n)

theorem PpuIo.drawn_vblankBit : (x.drawn pick n).irq.getLsbD 0 = x.irq.getLsbD 0 :=
  (PpuIo.enterHblank_vblankBit _).trans (x.searched_vblankBit pick n)

end

section
variable {x : PpuIo} (pick : SpritePick) (hon : x.ppu.lcdc.getLsbD 7 = true) (hacc : x.ppu.acc = 0)
include hon hacc

/-- A line of V-blank hands over no frame and requests no V-blank. -/
theorem PpuIo.advance_vblank_requests (hm : x.ppu.mode = .vblank) {n : Nat} (hn : n ≤ 456) :
    (x.advance pick n).frames = x.frames ∧ (x.advance pick n).irq.getLsbD 0 = x.irq.getLsbD 0 := by
  rcases Nat.lt_or_eq_of_le hn with h | rfl
  · rw [x.advance_vblank pick hon hm hacc h]
    exact ⟨rfl, x.charge_vblankBit n⟩
  · rw [x.advance_vblank_line pick hon hm hacc]
    exact ⟨rfl, (PpuIo.endVblankLine_vblankBit _).trans (x.charge_vblankBit 456)⟩

/-- The line after a line of V-blank. -/
theorem PpuIo.advance_vblank_line_frame (hm : x.ppu.mode = .vblank) : (x.advance pick 456).ppu = { x.ppu with
    acc := 0, ly := if x.ppu.ly + 1 = 154 then 0 else x.ppu.ly + 1
    mode := if x.ppu.ly + 1 = 154 then .oam else x.ppu.mode
    coin := (x.advance pick 456).ppu.coin, statLine := (x.advance pick 456).ppu.statLine } := by
  have hend : (x.charge 456).ppu.acc = 456 := by
    show x.ppu.acc + 456 = 456
    omega
  have hframe := (x.charge 456).endVblankLine_frame
  have hly : (x.charge 456).ppu.ly = x.ppu.ly := rfl
  have hmode : (x.charge 456).ppu.mode = x.ppu.mode := rfl
  rw [hend, Nat.sub_self, hly, hmode] at hframe
  rw [x.advance_vblank_line pick hon hm hacc]
  exact hframe

section
variable (hm : x.ppu.mode = .oam) {n : Nat}
include hm

/-- Pixel transfer within a visible line. -/
theorem PpuIo.advance_transfer (hlow : 80 ≤ n) (hhigh : n < 240) : (x.advance pick n).ppu.mode = .transfer ∧
    (x.advance pick n).ppu.col = n - 80 ∧ (x.advance pick n).ppu.ly = x.ppu.ly := by
  have hcol := x.searched_renderColumns_col pick n
  have hframe := Ppu.renderColumns_frame ((x.charge n).enterTransfer pick).ppu
  rw [x.advance_into_transfer pick n hon hm (by omega) (by omega)]
  exact ⟨hframe.mode_eq, hcol.trans (by omega), hframe.ly_eq⟩

/-- A visible line hands over no frame and requests no V-blank before its end. -/
theorem PpuIo.advance_visible_requests (hn : n < 444) :
    (x.advance pick n).frames = x.frames ∧ (x.advance pick n).irq.getLsbD 0 = x.irq.getLsbD 0 := by
  rcases Nat.lt_or_ge n 80 with h80 | h80
  · rw [x.advance_search pick hon hm hacc h80]
    exact ⟨rfl, x.charge_vblankBit n⟩
  · rcases Nat.lt_or_ge n 240 with h240 | h240
    · rw [x.advance_into_transfer pick n hon hm (by omega) (by omega)]
      exact ⟨rfl, x.searched_vblankBit pick n⟩
    · rw [x.advance_hblank pick hon hm hacc h240 hn]
      exact ⟨x.drawn_frames pick n, x.drawn_vblankBit pick n⟩

/-- The pixels of a visible line stand from its H-blank on. -/
theorem PpuIo.advance_shown (hy : x.ppu.ly < 144) (hlow : 240 ≤ n) (hn : n ≤ 444) :
    x.ppu.LineShown (x.ppu.selection pick) (x.advance pick n).ppu := by
  have hshown := PpuIo.drawn_shown hy hacc pick hlow
  rcases Nat.lt_or_eq_of_le hn with h | rfl
  · rwa [x.advance_hblank pick hon hm hacc hlow h]
  · rw [x.advance_line pick hon hm hacc]
    exact hshown.endHblank

/-- The line after a visible line. -/
theorem PpuIo.advance_line_end : (x.advance pick 444).ppu.ly = x.ppu.ly + 1 ∧ (x.advance pick 444).ppu.acc = 0 ∧
    (x.ppu.ly ≠ 143 → (x.advance pick 444).ppu.mode = .oam ∧ (x.advance pick 444).frames = x.frames) ∧
    (x.ppu.ly = 143 → (x.advance pick 444).ppu.mode = .vblank ∧ (x.advance pick 444).irq.getLsbD 0 = true ∧
      (x.advance pick 444).frames = x.frames ++ [(x.advance pick 444).ppu.frame]) := by
  have hly := x.drawn_ly pick 444
  have hleft := PpuIo.drawn_acc (n := 444) pick hacc (by decide)
  have hframe := (x.drawn pick 444).endHblank_frame
  rw [hly, hleft] at hframe
  rw [x.advance_line pick hon hm hacc]
  refine ⟨by rw [hframe], by rw [hframe], fun h => ?_, fun h => ?_⟩
  · have hnext : ¬ x.ppu.ly + 1 = 144 := by omega
    refine ⟨?_, (PpuIo.endHblank_frames _ (hly ▸ hnext)).trans (x.drawn_frames pick 444)⟩
    rw [hframe, if_neg hnext]
  · have hnext : x.ppu.ly + 1 = 144 := by omega
    obtain ⟨hirq, hframes⟩ := (x.drawn pick 444).endHblank_of_last (hly ▸ hnext)
    have hpicture : (x.drawn pick 444).endHblank.ppu.frame = (x.drawn pick 444).ppu.frame := by rw [hframe]
    refine ⟨?_, hirq, ?_⟩
    · rw [hframe, if_pos hnext]
    · rw [hframes, hpicture, x.drawn_frames]

end

end

/-- Settles O42: the passes of a line are followed, and the 160 columns of a visible one give its pixels. -/
theorem displayLineTimelineAndPixels : Obligations.DisplayLineTimelineAndPixels := by
  unfold Obligations.DisplayLineTimelineAndPixels
  constructor
  · intro pick x n hon hm hacc _ hlast hn p y
    obtain ⟨hframes, hirq⟩ := x.advance_vblank_requests pick hon hacc hm hn
    refine ⟨hframes, hirq, fun h => ?_, ?_⟩
    · have hframe := x.charge_frame n
      rw [hacc, Nat.zero_add, ← x.advance_vblank pick hon hm hacc h] at hframe
      exact hframe
    · have hframe := x.advance_vblank_line_frame pick hon hacc hm
      refine ⟨fun h hly => ?_, fun h hly => ?_⟩
      · subst h
        have hnext : ¬ x.ppu.ly + 1 = 154 := by
          show ¬ p.ly + 1 = 154
          omega
        rw [if_neg hnext, if_neg hnext] at hframe
        exact hframe
      · subst h
        have hnext : x.ppu.ly + 1 = 154 := by
          show p.ly + 1 = 154
          omega
        rw [if_pos hnext, if_pos hnext] at hframe
        exact hframe
  · intro pick x n hon hm hacc hy hn p y
    refine ⟨fun h => ?_, fun hlow hhigh => x.advance_transfer pick hon hacc hm hlow hhigh, fun hlow hhigh => ?_,
      fun h => x.advance_visible_requests pick hon hacc hm h, fun h => ?_,
      fun h => x.advance_shown pick hon hacc hm hy h hn⟩
    · unfold y
      rw [x.advance_search pick hon hm hacc h]
      exact ⟨hm, rfl⟩
    · unfold y
      rw [x.advance_hblank pick hon hm hacc hlow hhigh]
      exact ⟨x.drawn_mode pick n, x.drawn_ly pick n⟩
    · subst h
      exact x.advance_line_end pick hon hacc hm

end Sys2Proof.Machine
end
